-- ==== Sys2Proof/Word.lean ====
section
/-! DEFINITION. The word and half-register types of the machine (rules R30 and R41): a sign and five, or two,
six-bit bytes. Types only: their arithmetic and field views are in Machine/Codec.lean. -/

namespace Sys2Proof

/-- A sign bit (R30): `plus` is bit 0, `minus` is bit 1. -/
inductive Sign where
  | plus
  | minus
  deriving DecidableEq, Repr

/-- A machine byte is six bits wide, 0..63 (R8, R30). -/
abbrev Byte := BitVec 6

/-- A word (R30): a sign and five bytes, `b1` the most significant (R10, R83).
Negative zero is a word of its own, distinct from positive zero. -/
structure Word where
  sign : Sign
  b1 : Byte
  b2 : Byte
  b3 : Byte
  b4 : Byte
  b5 : Byte
  deriving DecidableEq, Repr

/-- The contents of an index or jump register (R41): a sign and two bytes, `h1` the high one. -/
structure Half where
  sign : Sign
  h1 : Byte
  h2 : Byte
  deriving DecidableEq, Repr

/-- +[0,0,0,0,0]. -/
def Word.zero : Word := ⟨.plus, 0, 0, 0, 0, 0⟩

/-- +[0,0]. -/
def Half.zero : Half := ⟨.plus, 0, 0⟩

end Sys2Proof
end

