-- ==== Sys2Proof/Syntax.lean ====
section
/-! DEFINITION. The instructions as syntax: one constructor of `Instr` per row of spec/opcode_table.json (rule R107),
with the operands the instruction word gives it (rules R101 and R106). -/

namespace Sys2Proof

/-- An index register I1..I6 (R42, R45). -/
inductive IndexReg where
  | i1 | i2 | i3 | i4 | i5 | i6
  deriving DecidableEq, Repr

/-- The address part of an instruction word (R101): the sign and magnitude of the address field (R103; -0 is a value
of its own) and the index register selected, `none` for I = 0 (R104). -/
structure Addr where
  sign : Sign
  mag : BitVec 12
  index : Option IndexReg
  deriving DecidableEq, Repr

/-- A field specification (L:R) (R35). Well-formed when L <= R; both are at most 5 by type. -/
structure FieldSpec where
  l : Fin 6
  r : Fin 6
  deriving DecidableEq, Repr

/-- One constructor per row of the opcode table. `m` is the address part; `f` of a field-spec opcode is its field,
`n` of MOVE its word count, `u` of an I/O opcode its unit number, and `f` of NOP the F byte that NOP ignores (R106).
The F of every other opcode is fixed by the constructor. -/
inductive Instr where
  -- Control and no-operation (R460 to R463)
  | nop (m : Addr) (f : Byte)
  | num (m : Addr)
  | char (m : Addr)
  | hlt (m : Addr)
  -- Arithmetic (R260 to R263)
  | add (m : Addr) (f : FieldSpec)
  | sub (m : Addr) (f : FieldSpec)
  | mul (m : Addr) (f : FieldSpec)
  | div (m : Addr) (f : FieldSpec)
  -- Shifts and MOVE (R441 to R446, R450)
  | sla (m : Addr)
  | sra (m : Addr)
  | slax (m : Addr)
  | srax (m : Addr)
  | slc (m : Addr)
  | src (m : Addr)
  | move (m : Addr) (n : Byte)
  -- Loads (R202 to R209)
  | lda (m : Addr) (f : FieldSpec)
  | ld1 (m : Addr) (f : FieldSpec)
  | ld2 (m : Addr) (f : FieldSpec)
  | ld3 (m : Addr) (f : FieldSpec)
  | ld4 (m : Addr) (f : FieldSpec)
  | ld5 (m : Addr) (f : FieldSpec)
  | ld6 (m : Addr) (f : FieldSpec)
  | ldx (m : Addr) (f : FieldSpec)
  -- Negated loads (R211 to R218)
  | ldan (m : Addr) (f : FieldSpec)
  | ld1n (m : Addr) (f : FieldSpec)
  | ld2n (m : Addr) (f : FieldSpec)
  | ld3n (m : Addr) (f : FieldSpec)
  | ld4n (m : Addr) (f : FieldSpec)
  | ld5n (m : Addr) (f : FieldSpec)
  | ld6n (m : Addr) (f : FieldSpec)
  | ldxn (m : Addr) (f : FieldSpec)
  -- Stores (R221 to R230)
  | sta (m : Addr) (f : FieldSpec)
  | st1 (m : Addr) (f : FieldSpec)
  | st2 (m : Addr) (f : FieldSpec)
  | st3 (m : Addr) (f : FieldSpec)
  | st4 (m : Addr) (f : FieldSpec)
  | st5 (m : Addr) (f : FieldSpec)
  | st6 (m : Addr) (f : FieldSpec)
  | stx (m : Addr) (f : FieldSpec)
  | stj (m : Addr)
  | stz (m : Addr) (f : FieldSpec)
  -- Input and output (R464 to R468)
  | jbus (m : Addr) (u : Byte)
  | ioc (m : Addr) (u : Byte)
  | inp (m : Addr) (u : Byte)
  | out (m : Addr) (u : Byte)
  | jred (m : Addr) (u : Byte)
  -- Opcode 39: unconditional, overflow and comparison jumps (R363 to R372)
  | jmp (m : Addr)
  | jsj (m : Addr)
  | jov (m : Addr)
  | jnov (m : Addr)
  | jl (m : Addr)
  | je (m : Addr)
  | jg (m : Addr)
  | jge (m : Addr)
  | jne (m : Addr)
  | jle (m : Addr)
  -- Opcodes 40..47: register jumps (R373 to R420)
  | jan (m : Addr)
  | jaz (m : Addr)
  | jap (m : Addr)
  | jann (m : Addr)
  | janz (m : Addr)
  | janp (m : Addr)
  | j1n (m : Addr)
  | j1z (m : Addr)
  | j1p (m : Addr)
  | j1nn (m : Addr)
  | j1nz (m : Addr)
  | j1np (m : Addr)
  | j2n (m : Addr)
  | j2z (m : Addr)
  | j2p (m : Addr)
  | j2nn (m : Addr)
  | j2nz (m : Addr)
  | j2np (m : Addr)
  | j3n (m : Addr)
  | j3z (m : Addr)
  | j3p (m : Addr)
  | j3nn (m : Addr)
  | j3nz (m : Addr)
  | j3np (m : Addr)
  | j4n (m : Addr)
  | j4z (m : Addr)
  | j4p (m : Addr)
  | j4nn (m : Addr)
  | j4nz (m : Addr)
  | j4np (m : Addr)
  | j5n (m : Addr)
  | j5z (m : Addr)
  | j5p (m : Addr)
  | j5nn (m : Addr)
  | j5nz (m : Addr)
  | j5np (m : Addr)
  | j6n (m : Addr)
  | j6z (m : Addr)
  | j6p (m : Addr)
  | j6nn (m : Addr)
  | j6nz (m : Addr)
  | j6np (m : Addr)
  | jxn (m : Addr)
  | jxz (m : Addr)
  | jxp (m : Addr)
  | jxnn (m : Addr)
  | jxnz (m : Addr)
  | jxnp (m : Addr)
  -- Address transfer (R302 to R333)
  | inca (m : Addr)
  | deca (m : Addr)
  | enta (m : Addr)
  | enna (m : Addr)
  | inc1 (m : Addr)
  | dec1 (m : Addr)
  | ent1 (m : Addr)
  | enn1 (m : Addr)
  | inc2 (m : Addr)
  | dec2 (m : Addr)
  | ent2 (m : Addr)
  | enn2 (m : Addr)
  | inc3 (m : Addr)
  | dec3 (m : Addr)
  | ent3 (m : Addr)
  | enn3 (m : Addr)
  | inc4 (m : Addr)
  | dec4 (m : Addr)
  | ent4 (m : Addr)
  | enn4 (m : Addr)
  | inc5 (m : Addr)
  | dec5 (m : Addr)
  | ent5 (m : Addr)
  | enn5 (m : Addr)
  | inc6 (m : Addr)
  | dec6 (m : Addr)
  | ent6 (m : Addr)
  | enn6 (m : Addr)
  | incx (m : Addr)
  | decx (m : Addr)
  | entx (m : Addr)
  | ennx (m : Addr)
  -- Compares (R341 to R348)
  | cmpa (m : Addr) (f : FieldSpec)
  | cmp1 (m : Addr) (f : FieldSpec)
  | cmp2 (m : Addr) (f : FieldSpec)
  | cmp3 (m : Addr) (f : FieldSpec)
  | cmp4 (m : Addr) (f : FieldSpec)
  | cmp5 (m : Addr) (f : FieldSpec)
  | cmp6 (m : Addr) (f : FieldSpec)
  | cmpx (m : Addr) (f : FieldSpec)
  deriving DecidableEq, Repr

end Sys2Proof
end

