-- ==== Sys2Proof/WellFormed.lean ====
section
/-! DEFINITION. Well-formed instructions: the legality of a field specification (rules R35, R105 and R106). The other
legality rules of the encoding hold by type: the index register is one of I1..I6 or none (R104), the selector of a
selector opcode is its constructor, and a count or a unit number is a byte (R106). -/

namespace Sys2Proof

/-- (L:R) is legal: L <= R <= 5 (R35; R <= 5 holds by type). -/
def FieldSpec.legal (f : FieldSpec) : Bool := decide (f.l ≤ f.r)

/-- The field of a field-spec opcode; `none` for a selector opcode (R106). STJ has no field operand: its field is fixed
at (0:2) (R229). -/
def Instr.field : Instr → Option FieldSpec
  | .add _ f | .sub _ f | .mul _ f | .div _ f | .lda _ f | .ld1 _ f
  | .ld2 _ f | .ld3 _ f | .ld4 _ f | .ld5 _ f | .ld6 _ f | .ldx _ f
  | .ldan _ f | .ld1n _ f | .ld2n _ f | .ld3n _ f | .ld4n _ f | .ld5n _ f
  | .ld6n _ f | .ldxn _ f | .sta _ f | .st1 _ f | .st2 _ f | .st3 _ f
  | .st4 _ f | .st5 _ f | .st6 _ f | .stx _ f | .stz _ f | .cmpa _ f
  | .cmp1 _ f | .cmp2 _ f | .cmp3 _ f | .cmp4 _ f | .cmp5 _ f | .cmp6 _ f
  | .cmpx _ f => some f
  | .nop _ _ | .move _ _ | .jbus _ _ | .ioc _ _ | .inp _ _ | .out _ _
  | .jred _ _ => none
  | .num _ | .char _ | .hlt _ | .sla _ | .sra _ | .slax _ | .srax _ | .slc _
  | .src _ | .stj _ | .jmp _ | .jsj _ | .jov _ | .jnov _ | .jl _ | .je _
  | .jg _ | .jge _ | .jne _ | .jle _ | .jan _ | .jaz _ | .jap _ | .jann _
  | .janz _ | .janp _ | .j1n _ | .j1z _ | .j1p _ | .j1nn _ | .j1nz _ | .j1np _
  | .j2n _ | .j2z _ | .j2p _ | .j2nn _ | .j2nz _ | .j2np _ | .j3n _ | .j3z _
  | .j3p _ | .j3nn _ | .j3nz _ | .j3np _ | .j4n _ | .j4z _ | .j4p _ | .j4nn _
  | .j4nz _ | .j4np _ | .j5n _ | .j5z _ | .j5p _ | .j5nn _ | .j5nz _ | .j5np _
  | .j6n _ | .j6z _ | .j6p _ | .j6nn _ | .j6nz _ | .j6np _ | .jxn _ | .jxz _
  | .jxp _ | .jxnn _ | .jxnz _ | .jxnp _ | .inca _ | .deca _ | .enta _ | .enna _
  | .inc1 _ | .dec1 _ | .ent1 _ | .enn1 _ | .inc2 _ | .dec2 _ | .ent2 _ | .enn2 _
  | .inc3 _ | .dec3 _ | .ent3 _ | .enn3 _ | .inc4 _ | .dec4 _ | .ent4 _ | .enn4 _
  | .inc5 _ | .dec5 _ | .ent5 _ | .enn5 _ | .inc6 _ | .dec6 _ | .ent6 _ | .enn6 _
  | .incx _ | .decx _ | .entx _ | .ennx _ => none

/-- The check: an instruction with a field operand has a legal one (R105, R106). -/
def Instr.wellFormed (i : Instr) : Bool :=
  match i.field with
  | some f => f.legal
  | none => true

/-- `wellFormed` as a proposition. -/
abbrev Instr.WellFormed (i : Instr) : Prop := i.wellFormed = true

end Sys2Proof
end

