-- ==== Sys2Proof/Machine/Codec.lean ====
section
/-! DEFINITION. The sign-magnitude word codec (rules R30 to R34) and the field unit (rules R35 to R41). -/

namespace Sys2Proof

/-- The sign bit as a number: 0 is +, 1 is - (R30). -/
def Sign.bit : Sign → Nat
  | .plus => 0
  | .minus => 1

/-- The sign bit of a number's parity: odd is - (the inverse of `Sign.bit`). -/
def Sign.ofBit (n : Nat) : Sign := if n % 2 = 1 then .minus else .plus

/-- The other sign: 1 - s. -/
def Sign.flip : Sign → Sign
  | .plus => .minus
  | .minus => .plus

/-- s XOR t, the sign rule of MUL and DIV (R262, R263). -/
def Sign.xor : Sign → Sign → Sign
  | .plus, t => t
  | .minus, t => t.flip

/-- sgn(t) (R12), with the sign `z` where t = 0: each rule says which sign a zero takes. -/
def Sign.ofInt (t : Int) (z : Sign) : Sign :=
  if t < 0 then .minus else if t > 0 then .plus else z

/-- The integer of a sign and a magnitude; both zeros have the value 0 (R11). -/
def Sign.apply : Sign → Nat → Int
  | .plus, m => m
  | .minus, m => -(m : Int)

/-- mag(w), the 30-bit magnitude of the five bytes, byte 1 the most significant: the sum of w.b[i]·64^(5-i) of R11
(`Word.mag_eq`), summed from the high byte down. -/
def Word.mag (w : Word) : Nat :=
  (((w.b1.toNat * 64 + w.b2.toNat) * 64 + w.b3.toNat) * 64 + w.b4.toNat) * 64 + w.b5.toNat

/-- val(w) (R11). -/
def Word.val (w : Word) : Int := w.sign.apply w.mag

/-- The word with a sign and a magnitude; of a magnitude of 2^30 or more the low 30 bits are kept. -/
def Word.ofMag (s : Sign) (m : Nat) : Word :=
  ⟨s, .ofNat 6 (m / 64 ^ 4), .ofNat 6 (m / 64 ^ 3), .ofNat 6 (m / 64 ^ 2), .ofNat 6 (m / 64), .ofNat 6 m⟩

/-- mag(h) = h1·64 + h2 (R11, R41). -/
def Half.mag (h : Half) : Nat := h.h1.toNat * 64 + h.h2.toNat

/-- val(h) (R41). -/
def Half.val (h : Half) : Int := h.sign.apply h.mag

/-- The half register contents with a sign and a magnitude; of a magnitude of 2^12 or more the low 12 bits are kept. -/
def Half.ofMag (s : Sign) (m : Nat) : Half := ⟨s, .ofNat 6 (m / 64), .ofNat 6 m⟩

/-- The five data bytes, byte 1 first. -/
def Word.bytes (w : Word) : List Byte := [w.b1, w.b2, w.b3, w.b4, w.b5]

/-- The word with a sign and the first five bytes of a list (0 where the list is shorter). -/
def Word.ofBytes (s : Sign) (l : List Byte) : Word :=
  ⟨s, l.getD 0 0, l.getD 1 0, l.getD 2 0, l.getD 3 0, l.getD 4 0⟩

/-- w.b[i] for i in 1..5 (R11); 0 at any other i, which no rule asks for. -/
def Word.byte (w : Word) : Nat → Byte
  | 1 => w.b1
  | 2 => w.b2
  | 3 => w.b3
  | 4 => w.b4
  | 5 => w.b5
  | _ => 0

/-- enc(w) = w.s·2^30 + mag(w), the 31-bit encoding of a word (R31). -/
def Word.enc (w : Word) : Nat := w.sign.bit * 2 ^ 30 + w.mag

/-- The word whose 31-bit encoding is `n` (R31); bits above bit 30 are not looked at. -/
def Word.ofEnc (n : Nat) : Word := Word.ofMag (Sign.ofBit (n / 2 ^ 30)) n

/-- The 13-bit encoding of a half register: sign at bit 12 (R41). -/
def Half.enc (h : Half) : Nat := h.sign.bit * 2 ^ 12 + h.mag

/-- One input byte of `compose`: replaced by 0 outside [0, 63] (R32). -/
def composeByte (b : Int) : Byte := if 0 ≤ b ∧ b ≤ 63 then .ofNat 6 b.toNat else 0

/-- compose(b1, b2, b3, b4, b5, s) (R32). -/
def compose (b1 b2 b3 b4 b5 : Int) (s : Sign) : Word :=
  ⟨s, composeByte b1, composeByte b2, composeByte b3, composeByte b4, composeByte b5⟩

/-- decompose(w): the five bytes and the sign (R33). -/
def decompose (w : Word) : (Nat × Nat × Nat × Nat × Nat) × Sign :=
  ((w.b1.toNat, w.b2.toNat, w.b3.toNat, w.b4.toNat, w.b5.toNat), w.sign)

/-- sign(w) as +1 or -1 (R33): sign(-0) = -1. -/
def Word.signum (w : Word) : Int :=
  match w.sign with
  | .plus => 1
  | .minus => -1

/-- negate(w) flips the sign bit only, of zero too (R34). -/
def negate (w : Word) : Word := { w with sign := w.sign.flip }

/-- F = 8·L + R (R35). -/
def FieldSpec.code (f : FieldSpec) : Nat := 8 * f.l.val + f.r.val

/-- The first data byte of a field: position 0 is the sign, so a field with L = 0 starts at byte 1 (R36, R38). -/
def FieldSpec.lo (f : FieldSpec) : Nat := max f.l.val 1

/-- The number of data bytes of a field; 0 for (0:0) (R36). -/
def FieldSpec.count (f : FieldSpec) : Nat := f.r.val + 1 - f.lo

/-- fieldView(w, L, R) (R36, R37). Defined for a legal pair (R35): every operation that uses it has checked the pair. -/
def fieldView (w : Word) (f : FieldSpec) : Word :=
  Word.ofMag (if f.l = 0 then w.sign else .plus) (w.mag / 64 ^ (5 - f.r.val) % 64 ^ f.count)

/-- Byte `i` of applyField(dst, L, R, v): byte R of dst receives v.b[5], byte R-1 receives v.b[4], and so on (R38). -/
def applyByte (dst : Word) (f : FieldSpec) (v : Word) (i : Nat) : Byte :=
  if f.lo ≤ i ∧ i ≤ f.r.val then v.byte (5 - (f.r.val - i)) else dst.byte i

/-- applyField(dst, L, R, v) (R38). Defined for a legal pair, as `fieldView`. -/
def applyField (dst : Word) (f : FieldSpec) (v : Word) : Word :=
  ⟨if f.l = 0 then v.sign else dst.sign,
    applyByte dst f v 1, applyByte dst f v 2, applyByte dst f v 3, applyByte dst f v 4, applyByte dst f v 5⟩

/-- pad(h) = ±[0,0,0,h1,h2] (R40). -/
def pad (h : Half) : Word := ⟨h.sign, 0, 0, 0, h.h1, h.h2⟩

/-- mag(v) < 4096, that is, bytes 1..3 are zero: v fits a half register (R41, R201). -/
def Word.fitsHalf (v : Word) : Bool := v.b1 = 0 ∧ v.b2 = 0 ∧ v.b3 = 0

/-- half(v) = (v.s, v.b[4], v.b[5]) (R41). -/
def Word.half (v : Word) : Half := ⟨v.sign, v.b4, v.b5⟩

/-- The field (0:2), the only one of STJ (R229). -/
def FieldSpec.stj : FieldSpec := ⟨0, 2⟩

end Sys2Proof
end

