-- ==== Sys2Proof/Decode.lean ====
section
/-! DEFINITION. The decoder, total on every word (rules R100 to R108), rejecting by name, and after it the encoder,
written from the same opcode map (rule R107). -/

namespace Sys2Proof

/-- Why a word is no instruction (R108): the two decode errors that are a matter of the word alone, in the order of
rule R511. NUM and CHAR, the third class of R108, are rows of the opcode table: they decode, and their meaning raises
InvalidOpcode. -/
inductive Reject where
  /-- The index byte I is 7..63 (R104, R503). -/
  | invalidIndex (i : Nat)
  /-- The F byte is illegal for the opcode (R105, R106, R504). -/
  | invalidFieldSpec (f : Nat)
  deriving DecidableEq, Repr

/-- What the decoder answers. -/
inductive Decoded where
  | ok (i : Instr)
  | reject (r : Reject)
  deriving DecidableEq, Repr

/-- The index selector from the I byte: 0 is none, 1..6 are I1..I6, anything else is rejected (R104). -/
def decodeIndex (b : Byte) : Option (Option IndexReg) :=
  match b.toNat with
  | 0 => some none
  | 1 => some (some .i1)
  | 2 => some (some .i2)
  | 3 => some (some .i3)
  | 4 => some (some .i4)
  | 5 => some (some .i5)
  | 6 => some (some .i6)
  | _ => none

/-- The field (L:R) from the F byte, L = F div 8 and R = F mod 8, legal when L <= R <= 5 (R105). -/
def decodeField (b : Byte) : Option FieldSpec :=
  if h : b.toNat / 8 ≤ b.toNat % 8 ∧ b.toNat % 8 ≤ 5 then
    some ⟨⟨b.toNat / 8, by omega⟩, ⟨b.toNat % 8, by omega⟩⟩
  else none

/-- The two bytes of the address field as one magnitude, b1·64 + b2 (R102). -/
def decodeAddrMag (b1 b2 : Byte) : BitVec 12 := .ofNat 12 (b1.toNat * 64 + b2.toNat)

/-- A field-spec opcode: the F byte is a field (R105, R106). -/
def withFieldSpec (b : Byte) (k : FieldSpec → Instr) : Decoded :=
  match decodeField b with
  | some f => .ok (k f)
  | none => .reject (.invalidFieldSpec b.toNat)

/-- A selector opcode: the F byte chooses one of the listed instructions, F = 0 the first; beyond the list it is
illegal (R106). -/
def selectBy (b : Byte) (l : List Instr) : Decoded :=
  match l[b.toNat]? with
  | some i => .ok i
  | none => .reject (.invalidFieldSpec b.toNat)

/-- The instruction of opcode `c`, address part `m` and F byte `b`: the opcode map (R106, R107). -/
def decodeOpcode (m : Addr) (b : Byte) (c : Nat) : Decoded :=
  match c with
  | 0 => .ok (.nop m b)
  | 1 => withFieldSpec b (.add m)
  | 2 => withFieldSpec b (.sub m)
  | 3 => withFieldSpec b (.mul m)
  | 4 => withFieldSpec b (.div m)
  | 5 => selectBy b [.num m, .char m, .hlt m]
  | 6 => selectBy b [.sla m, .sra m, .slax m, .srax m, .slc m, .src m]
  | 7 => .ok (.move m b)
  | 8 => withFieldSpec b (.lda m)
  | 9 => withFieldSpec b (.ld1 m)
  | 10 => withFieldSpec b (.ld2 m)
  | 11 => withFieldSpec b (.ld3 m)
  | 12 => withFieldSpec b (.ld4 m)
  | 13 => withFieldSpec b (.ld5 m)
  | 14 => withFieldSpec b (.ld6 m)
  | 15 => withFieldSpec b (.ldx m)
  | 16 => withFieldSpec b (.ldan m)
  | 17 => withFieldSpec b (.ld1n m)
  | 18 => withFieldSpec b (.ld2n m)
  | 19 => withFieldSpec b (.ld3n m)
  | 20 => withFieldSpec b (.ld4n m)
  | 21 => withFieldSpec b (.ld5n m)
  | 22 => withFieldSpec b (.ld6n m)
  | 23 => withFieldSpec b (.ldxn m)
  | 24 => withFieldSpec b (.sta m)
  | 25 => withFieldSpec b (.st1 m)
  | 26 => withFieldSpec b (.st2 m)
  | 27 => withFieldSpec b (.st3 m)
  | 28 => withFieldSpec b (.st4 m)
  | 29 => withFieldSpec b (.st5 m)
  | 30 => withFieldSpec b (.st6 m)
  | 31 => withFieldSpec b (.stx m)
  | 32 => if b = 2 then .ok (.stj m) else .reject (.invalidFieldSpec b.toNat)
  | 33 => withFieldSpec b (.stz m)
  | 34 => .ok (.jbus m b)
  | 35 => .ok (.ioc m b)
  | 36 => .ok (.inp m b)
  | 37 => .ok (.out m b)
  | 38 => .ok (.jred m b)
  | 39 => selectBy b [.jmp m, .jsj m, .jov m, .jnov m, .jl m, .je m, .jg m, .jge m, .jne m, .jle m]
  | 40 => selectBy b [.jan m, .jaz m, .jap m, .jann m, .janz m, .janp m]
  | 41 => selectBy b [.j1n m, .j1z m, .j1p m, .j1nn m, .j1nz m, .j1np m]
  | 42 => selectBy b [.j2n m, .j2z m, .j2p m, .j2nn m, .j2nz m, .j2np m]
  | 43 => selectBy b [.j3n m, .j3z m, .j3p m, .j3nn m, .j3nz m, .j3np m]
  | 44 => selectBy b [.j4n m, .j4z m, .j4p m, .j4nn m, .j4nz m, .j4np m]
  | 45 => selectBy b [.j5n m, .j5z m, .j5p m, .j5nn m, .j5nz m, .j5np m]
  | 46 => selectBy b [.j6n m, .j6z m, .j6p m, .j6nn m, .j6nz m, .j6np m]
  | 47 => selectBy b [.jxn m, .jxz m, .jxp m, .jxnn m, .jxnz m, .jxnp m]
  | 48 => selectBy b [.inca m, .deca m, .enta m, .enna m]
  | 49 => selectBy b [.inc1 m, .dec1 m, .ent1 m, .enn1 m]
  | 50 => selectBy b [.inc2 m, .dec2 m, .ent2 m, .enn2 m]
  | 51 => selectBy b [.inc3 m, .dec3 m, .ent3 m, .enn3 m]
  | 52 => selectBy b [.inc4 m, .dec4 m, .ent4 m, .enn4 m]
  | 53 => selectBy b [.inc5 m, .dec5 m, .ent5 m, .enn5 m]
  | 54 => selectBy b [.inc6 m, .dec6 m, .ent6 m, .enn6 m]
  | 55 => selectBy b [.incx m, .decx m, .entx m, .ennx m]
  | 56 => withFieldSpec b (.cmpa m)
  | 57 => withFieldSpec b (.cmp1 m)
  | 58 => withFieldSpec b (.cmp2 m)
  | 59 => withFieldSpec b (.cmp3 m)
  | 60 => withFieldSpec b (.cmp4 m)
  | 61 => withFieldSpec b (.cmp5 m)
  | 62 => withFieldSpec b (.cmp6 m)
  | 63 => withFieldSpec b (.cmpx m)
  | _ => .reject (.invalidFieldSpec b.toNat)

/-- The decoder on words (R102, R104, R106): the index is checked first, then F for the opcode (R511). -/
def decode (w : Word) : Decoded :=
  match decodeIndex w.b3 with
  | none => .reject (.invalidIndex w.b3.toNat)
  | some ix => decodeOpcode ⟨w.sign, decodeAddrMag w.b1 w.b2, ix⟩ w.b4 w.b5.toNat

/-! ## The encoder -/

/-- The I byte of an index selector (R104). -/
def encodeIndex : Option IndexReg → Byte
  | none => 0
  | some .i1 => 1
  | some .i2 => 2
  | some .i3 => 3
  | some .i4 => 4
  | some .i5 => 5
  | some .i6 => 6

/-- The word with an address part, an F byte and an opcode, by the byte positions of R101. -/
def assemble (m : Addr) (b : Byte) (c : Byte) : Word :=
  ⟨m.sign, .ofNat 6 (m.mag.toNat / 64), .ofNat 6 m.mag.toNat, encodeIndex m.index, b, c⟩

/-- The F byte of a field, 8·L + R (R35). -/
def FieldSpec.toByte (f : FieldSpec) : Byte := .ofNat 6 f.code

/-- encode: the word of an instruction, by the opcode map (R106, R107). -/
def encode : Instr → Word
  | .nop m f => assemble m f 0
  | .add m f => assemble m f.toByte 1
  | .sub m f => assemble m f.toByte 2
  | .mul m f => assemble m f.toByte 3
  | .div m f => assemble m f.toByte 4
  | .num m => assemble m 0 5
  | .char m => assemble m 1 5
  | .hlt m => assemble m 2 5
  | .sla m => assemble m 0 6
  | .sra m => assemble m 1 6
  | .slax m => assemble m 2 6
  | .srax m => assemble m 3 6
  | .slc m => assemble m 4 6
  | .src m => assemble m 5 6
  | .move m n => assemble m n 7
  | .lda m f => assemble m f.toByte 8
  | .ld1 m f => assemble m f.toByte 9
  | .ld2 m f => assemble m f.toByte 10
  | .ld3 m f => assemble m f.toByte 11
  | .ld4 m f => assemble m f.toByte 12
  | .ld5 m f => assemble m f.toByte 13
  | .ld6 m f => assemble m f.toByte 14
  | .ldx m f => assemble m f.toByte 15
  | .ldan m f => assemble m f.toByte 16
  | .ld1n m f => assemble m f.toByte 17
  | .ld2n m f => assemble m f.toByte 18
  | .ld3n m f => assemble m f.toByte 19
  | .ld4n m f => assemble m f.toByte 20
  | .ld5n m f => assemble m f.toByte 21
  | .ld6n m f => assemble m f.toByte 22
  | .ldxn m f => assemble m f.toByte 23
  | .sta m f => assemble m f.toByte 24
  | .st1 m f => assemble m f.toByte 25
  | .st2 m f => assemble m f.toByte 26
  | .st3 m f => assemble m f.toByte 27
  | .st4 m f => assemble m f.toByte 28
  | .st5 m f => assemble m f.toByte 29
  | .st6 m f => assemble m f.toByte 30
  | .stx m f => assemble m f.toByte 31
  | .stj m => assemble m 2 32
  | .stz m f => assemble m f.toByte 33
  | .jbus m u => assemble m u 34
  | .ioc m u => assemble m u 35
  | .inp m u => assemble m u 36
  | .out m u => assemble m u 37
  | .jred m u => assemble m u 38
  | .jmp m => assemble m 0 39
  | .jsj m => assemble m 1 39
  | .jov m => assemble m 2 39
  | .jnov m => assemble m 3 39
  | .jl m => assemble m 4 39
  | .je m => assemble m 5 39
  | .jg m => assemble m 6 39
  | .jge m => assemble m 7 39
  | .jne m => assemble m 8 39
  | .jle m => assemble m 9 39
  | .jan m => assemble m 0 40
  | .jaz m => assemble m 1 40
  | .jap m => assemble m 2 40
  | .jann m => assemble m 3 40
  | .janz m => assemble m 4 40
  | .janp m => assemble m 5 40
  | .j1n m => assemble m 0 41
  | .j1z m => assemble m 1 41
  | .j1p m => assemble m 2 41
  | .j1nn m => assemble m 3 41
  | .j1nz m => assemble m 4 41
  | .j1np m => assemble m 5 41
  | .j2n m => assemble m 0 42
  | .j2z m => assemble m 1 42
  | .j2p m => assemble m 2 42
  | .j2nn m => assemble m 3 42
  | .j2nz m => assemble m 4 42
  | .j2np m => assemble m 5 42
  | .j3n m => assemble m 0 43
  | .j3z m => assemble m 1 43
  | .j3p m => assemble m 2 43
  | .j3nn m => assemble m 3 43
  | .j3nz m => assemble m 4 43
  | .j3np m => assemble m 5 43
  | .j4n m => assemble m 0 44
  | .j4z m => assemble m 1 44
  | .j4p m => assemble m 2 44
  | .j4nn m => assemble m 3 44
  | .j4nz m => assemble m 4 44
  | .j4np m => assemble m 5 44
  | .j5n m => assemble m 0 45
  | .j5z m => assemble m 1 45
  | .j5p m => assemble m 2 45
  | .j5nn m => assemble m 3 45
  | .j5nz m => assemble m 4 45
  | .j5np m => assemble m 5 45
  | .j6n m => assemble m 0 46
  | .j6z m => assemble m 1 46
  | .j6p m => assemble m 2 46
  | .j6nn m => assemble m 3 46
  | .j6nz m => assemble m 4 46
  | .j6np m => assemble m 5 46
  | .jxn m => assemble m 0 47
  | .jxz m => assemble m 1 47
  | .jxp m => assemble m 2 47
  | .jxnn m => assemble m 3 47
  | .jxnz m => assemble m 4 47
  | .jxnp m => assemble m 5 47
  | .inca m => assemble m 0 48
  | .deca m => assemble m 1 48
  | .enta m => assemble m 2 48
  | .enna m => assemble m 3 48
  | .inc1 m => assemble m 0 49
  | .dec1 m => assemble m 1 49
  | .ent1 m => assemble m 2 49
  | .enn1 m => assemble m 3 49
  | .inc2 m => assemble m 0 50
  | .dec2 m => assemble m 1 50
  | .ent2 m => assemble m 2 50
  | .enn2 m => assemble m 3 50
  | .inc3 m => assemble m 0 51
  | .dec3 m => assemble m 1 51
  | .ent3 m => assemble m 2 51
  | .enn3 m => assemble m 3 51
  | .inc4 m => assemble m 0 52
  | .dec4 m => assemble m 1 52
  | .ent4 m => assemble m 2 52
  | .enn4 m => assemble m 3 52
  | .inc5 m => assemble m 0 53
  | .dec5 m => assemble m 1 53
  | .ent5 m => assemble m 2 53
  | .enn5 m => assemble m 3 53
  | .inc6 m => assemble m 0 54
  | .dec6 m => assemble m 1 54
  | .ent6 m => assemble m 2 54
  | .enn6 m => assemble m 3 54
  | .incx m => assemble m 0 55
  | .decx m => assemble m 1 55
  | .entx m => assemble m 2 55
  | .ennx m => assemble m 3 55
  | .cmpa m f => assemble m f.toByte 56
  | .cmp1 m f => assemble m f.toByte 57
  | .cmp2 m f => assemble m f.toByte 58
  | .cmp3 m f => assemble m f.toByte 59
  | .cmp4 m f => assemble m f.toByte 60
  | .cmp5 m f => assemble m f.toByte 61
  | .cmp6 m f => assemble m f.toByte 62
  | .cmpx m f => assemble m f.toByte 63

/-! ## Words numbered as the opcode table numbers them -/

/-- The instruction the decoder reads from a table word: bit 0 of `w` is the least significant bit of the opcode byte,
bit 30 the sign (R31, R101). The bits above `nbits` are 0. A number with a bit above bit 30 is no word of this machine. -/
def decodeTableWord (nbits w : Nat) : Option Instr :=
  if w % 2 ^ nbits < 2 ^ 31 then
    match decode (Word.ofEnc (w % 2 ^ nbits)) with
    | .ok i => some i
    | .reject _ => none
  else none

end Sys2Proof
end

