-- ==== Sys2Proof/Config.lean ====
section
/-! DEFINITION. The parameters of the machine: the fixed ones of rule R8 and the two open ones of rule R9
(the start address and the device registry). No value of this hardware is left free (93_implementation_defined.md:
no item has the treatment "any value"), so this file holds no opaque constant. -/

namespace Sys2Proof.Config

/-- N, the number of memory words; addresses are 0..3999 (R8, R80). -/
def memSize : Nat := 4000

/-- MAG_BITS, the magnitude width of a word and of A and X (R8). -/
def magBits : Nat := 30

/-- HALF_MAG_BITS, the magnitude width of an index or jump register (R8). -/
def halfMagBits : Nat := 12

/-- The start address that `State.reset` uses. Rule R9 leaves `start` to the caller (D47, OPEN), in [0, 4000);
`State.resetAt` and the host operation `reset(start)` take any admitted value.
DESIGN CHOICE 0 (unsafe, log entry 1): no statement about this hardware may rest on it. -/
def start : BitVec 12 := 0

/-- DEVICES, the device registry, as the list of the unit numbers it holds. Rule R9 and decision D48 admit only the
empty registry; rule R470 has every other value refused at reset. -/
def devices : List Nat := []

end Sys2Proof.Config
end

