-- ==== Sys2Proof/Machine/State.lean ====
section
/-! DEFINITION. The state of the machine (rules R42 to R53, R80), its reset (rules R540 to R542), and the reasons a step
or a host operation can stop (rules R501 to R509, R530 to R532). -/

namespace Sys2Proof.Machine

/-- CI, the comparison indicator (R51); `unset` only before the first compare. -/
inductive Indicator where
  | unset
  | less
  | equal
  | greater
  deriving DecidableEq, Repr

/-- One memory cell: its address and its word. The addressable unit is the 31-bit word (R81). -/
abbrev MemCell := Nat × Word

/-- The memory: the cells that do not hold +0, in rising order of address (the canonical form is `Memory.wf` of
Machine/Ops.lean). An address below 4000 that is not listed reads as +0, the reset contents of every cell (R542). -/
abbrev Memory := List MemCell

/-- The complete architectural state: the tuple of R53. -/
structure State where
  /-- The accumulator (R43). -/
  a : Word
  /-- The extension register (R44). -/
  x : Word
  /-- The index registers (R45). -/
  i1 : Half
  i2 : Half
  i3 : Half
  i4 : Half
  i5 : Half
  i6 : Half
  /-- The jump register, its sign always + (R46). -/
  j : Half
  /-- The program counter, 12 bits (R49). -/
  pc : BitVec 12
  /-- The overflow toggle (R50). -/
  ov : Bool
  /-- The comparison indicator (R51). -/
  ci : Indicator
  /-- The halted flag (R52). -/
  halt : Bool
  /-- The 4000 memory words (R80). -/
  mem : Memory
  deriving DecidableEq, Repr

/-- The state that `reset(start)` leaves (R540): every register and cell +0, the flags cleared, CI unset, PC = start. -/
def State.resetAt (start : BitVec 12) : State where
  a := .zero
  x := .zero
  i1 := .zero
  i2 := .zero
  i3 := .zero
  i4 := .zero
  i5 := .zero
  i6 := .zero
  j := .zero
  pc := start
  ov := false
  ci := .unset
  halt := false
  mem := []

/-- The machine right after reset, at the start address `Config.start` (DESIGN CHOICE, log entry 1). -/
def State.reset : State := State.resetAt Config.start

/-- The fault statuses of a step, codes 2 to 8 of R501, each with its info. A fault ends the step and changes nothing
(R502): PC still names the faulting instruction. Every one is the spec's own, so each is safe. -/
inductive Fault where
  /-- Raised by any word whose index byte is 7..63 (R503). Safe: the spec's own fault. -/
  | invalidIndex (i : Nat)
  /-- Raised by any word whose F byte is illegal for its opcode (R504), and by a codec use of an illegal pair (R35).
  Safe: the spec's own fault. -/
  | invalidFieldSpec (f : Nat)
  /-- Raised by NUM (320) and CHAR (321) (R505). Safe: the spec's own fault. -/
  | invalidOpcode (n : Nat)
  /-- Raised by the fetch, by memory operands, by taken jumps and by MOVE, for an address outside [0, 4000) (R506).
  Safe: the spec's own fault. -/
  | addressOutOfRange (a : Int)
  /-- Raised by LDi, LDiN, ENTi and ENNi for a value of magnitude 4096 or more (R507). Safe: the spec's own fault. -/
  | indexValueOutOfRange (v : Int)
  /-- Raised by the six shifts for a negative count (R508). Safe: the spec's own fault. -/
  | invalidShiftCount (v : Int)
  /-- Raised by the five I/O instructions for a unit the registry does not hold (R509). Safe: the spec's own fault. -/
  | noDevice (u : Nat)
  deriving DecidableEq, Repr

/-- What is refused. No step of this machine answers one of these but `notModelled` (of an instruction still without a
meaning) and `deviceBehaviour`; the others are answers of the host operations (R530). Each is safe: nothing is claimed
of what follows. -/
inductive Refusal where
  /-- By exec, of an instruction that has no meaning yet. Safe. -/
  | notModelled (mnemonic : String)
  /-- By an I/O instruction that names a unit the registry holds (R470: the behaviour is outside the spec). The admitted
  registry is empty, so no step answers it. Safe. -/
  | deviceBehaviour (u : Nat)
  /-- By `reset(start)` with a start outside [0, 4000) (R541). Safe. -/
  | startOutOfRange (start : Int)
  /-- By `reset` with a device registry that is not empty (R470). Safe. -/
  | devicesNotSupported
  /-- By `load` after the first step since reset (R532). Safe. -/
  | loadAfterStep
  /-- By `load` at an address outside [0, 4000) (R532). Safe. -/
  | loadOutOfRange (addr : Int)
  /-- By the query of a cell at an address outside [0, 4000) (R531). Safe. -/
  | queryOutOfRange (addr : Int)
  deriving DecidableEq, Repr

/-- What a step, or a meaning, answers. -/
abbrev Result := Host.Outcome State Fault Refusal

end Sys2Proof.Machine
end

