-- ==== Sys2Proof/Machine/Ops.lean ====
section
/-! DEFINITION. The named operations over memory, registers and the program counter, and the ending of a step by a
fault (rule R513). -/

namespace Sys2Proof.Machine

/-! ## Faults -/

/-- `raise f` (R13, R502, R513): the step ends with the fault's status and info and the state stays as it was before the
step. The core has no trap mechanism: nothing is saved, no mode changes, control goes nowhere, and so there is no return
from a trap either (R514). -/
def raise (f : Fault) : Result := .fault f

/-! ## Memory -/

/-- The word at address `a` (R80): +0 where the cell is not listed (R542). -/
def Memory.read : Memory → Nat → Word
  | [], _ => .zero
  | (b, v) :: rest, a => if a = b then v else Memory.read rest a

/-- The memory with `w` at address `a`. Keeps the canonical form: a cell that becomes +0 leaves the list. -/
def Memory.write : Memory → Nat → Word → Memory
  | [], a, w => if w = .zero then [] else [(a, w)]
  | (b, v) :: rest, a, w =>
    if a < b then (if w = .zero then (b, v) :: rest else (a, w) :: (b, v) :: rest)
    else if a = b then (if w = .zero then rest else (a, w) :: rest)
    else (b, v) :: Memory.write rest a w

/-- The canonical form from address `lo` on: addresses rise strictly and stay below 4000, and no entry is +0. -/
def Memory.wfFrom : Nat → Memory → Bool
  | _, [] => true
  | lo, (b, v) :: rest =>
    decide (lo ≤ b) && decide (b < Config.memSize) && decide (v ≠ .zero) && Memory.wfFrom (b + 1) rest

/-- The canonical form of a memory. -/
def Memory.wf (m : Memory) : Bool := Memory.wfFrom 0 m

/-- The `n` words from address `a` on, in order: the snapshot of MOVE (R450). -/
def Memory.readRun (m : Memory) (a : Nat) : Nat → List Word
  | 0 => []
  | n + 1 => m.read a :: Memory.readRun m (a + 1) n

/-- The memory with the listed words at address `a` and on (R450). -/
def Memory.writeRun : Memory → Nat → List Word → Memory
  | m, _, [] => m
  | m, a, w :: ws => Memory.writeRun (m.write a w) (a + 1) ws

/-- The bounds check of R82: go on with the address `a` when it is in [0, 4000), else AddressOutOfRange(a). -/
def withAddress (a : Int) (k : Nat → Result) : Result :=
  if 0 ≤ a ∧ a < Config.memSize then k a.toNat else raise (.addressOutOfRange a)

/-! ## Registers -/

/-- The full registers A and X (R42). -/
inductive FullReg where
  | a
  | x
  deriving DecidableEq, Repr

/-- The register file's enumeration (R42). -/
inductive Reg where
  | full (r : FullReg)
  | index (i : IndexReg)
  | jump
  deriving DecidableEq, Repr

/-- x[r] for r = A or X. -/
def State.full (s : State) : FullReg → Word
  | .a => s.a
  | .x => s.x

/-- x[r] <- v for r = A or X. -/
def State.setFull (s : State) (r : FullReg) (v : Word) : State :=
  match r with
  | .a => { s with a := v }
  | .x => { s with x := v }

/-- x[Ii]. -/
def State.index (s : State) : IndexReg → Half
  | .i1 => s.i1
  | .i2 => s.i2
  | .i3 => s.i3
  | .i4 => s.i4
  | .i5 => s.i5
  | .i6 => s.i6

/-- x[Ii] <- h. -/
def State.setIndex (s : State) (i : IndexReg) (h : Half) : State :=
  match i with
  | .i1 => { s with i1 := h }
  | .i2 => { s with i2 := h }
  | .i3 => { s with i3 := h }
  | .i4 => { s with i4 := h }
  | .i5 => { s with i5 := h }
  | .i6 => { s with i6 := h }

/-- x[J] <- h: the single write entry point of J, which forces the sign + (R47). -/
def State.setJ (s : State) (h : Half) : State := { s with j := { h with sign := .plus } }

/-- read(regId) as a word (R42): a half register is widened by `pad` (R40). -/
def State.readReg (s : State) : Reg → Word
  | .full r => s.full r
  | .index i => pad (s.index i)
  | .jump => pad s.j

/-- MemWrite into the state's memory. -/
def State.setMem (s : State) (m : Memory) : State := { s with mem := m }

/-- OV <- b. -/
def State.setOv (s : State) (b : Bool) : State := { s with ov := b }

/-- CI <- c. -/
def State.setCi (s : State) (c : Indicator) : State := { s with ci := c }

/-- HALT <- 1. -/
def State.setHalt (s : State) : State := { s with halt := true }

/-! ## The program counter -/

/-- `next` = PC + 1, of the PC the instruction was fetched at (R113). -/
def State.nextAddr (s : State) : Nat := s.pc.toNat + 1

/-- pc <- n. -/
def State.setPc (s : State) (n : Nat) : State := { s with pc := .ofNat 12 n }

/-- pc <- next. -/
def State.advance (s : State) : State := s.setPc s.nextAddr

/-- The end of a step that goes on to the following instruction: the writes of `s`, and pc <- next (R113). -/
def finish (s : State) : Result := .next s.advance

end Sys2Proof.Machine
end

