-- ==== Sys2Proof/Machine/Operands.lean ====
section
/-! DEFINITION. Operands: the effective address (rules R110 to R112), the memory operand of a field-spec opcode (rules
R35, R82 and R112), and the counts, targets and index values that a rule checks. -/

namespace Sys2Proof.Machine

/-- The effective address: a signed value with a sign for zero (R13, R110). -/
structure EffAddr where
  sign : Sign
  val : Int
  deriving DecidableEq, Repr

/-- ea.mag = |ea.val|. -/
def EffAddr.mag (e : EffAddr) : Nat := e.val.natAbs

/-- ival: 0 for I = 0, else the value of the index register (R110). -/
def indexVal (s : State) : Option IndexReg → Int
  | none => 0
  | some i => (s.index i).val

/-- aval: the signed value of the address field (R103). -/
def Addr.val (m : Addr) : Int := m.sign.apply m.mag.toNat

/-- The effective address (R110); a zero takes the sign of the address field (R111). -/
def ea (m : Addr) (s : State) : EffAddr :=
  let t := Addr.val m + indexVal s m.index
  ⟨Sign.ofInt t m.sign, t⟩

/-- The signed word (ea.s, ea.mag) (R301). -/
def EffAddr.word (e : EffAddr) : Word := Word.ofMag e.sign e.mag

/-- The memory operand of a field-spec opcode: the legality of the field (R35, R105), then the bounds check of the
address (R112); the meaning goes on with the address and the whole word there (R86). -/
def withCell (m : Addr) (f : FieldSpec) (s : State) (k : Nat → Word → Result) : Result :=
  if f.legal then withAddress (ea m s).val fun a => k a (s.mem.read a)
  else raise (.invalidFieldSpec f.code)

/-- A value bound for an index register must fit its two bytes, else IndexValueOutOfRange (R201, R507). -/
def withHalf (v : Word) (k : Half → Result) : Result :=
  if v.fitsHalf then k v.half else raise (.indexValueOutOfRange v.val)

/-- The count of a shift over `width` bytes: ea.val mod width, of a non-negative ea (R440). -/
def withShiftCount (m : Addr) (s : State) (width : Nat) (k : Nat → Result) : Result :=
  if (ea m s).val < 0 then raise (.invalidShiftCount (ea m s).val) else k ((ea m s).val.toNat % width)

/-- A run of `n` words from `a` must lie in memory: the fault's info is the start when that is outside, else 4000
(R450, R506). -/
def withRun (a : Int) (n : Nat) (k : Nat → Result) : Result :=
  withAddress a fun b =>
    if b + n > Config.memSize then raise (.addressOutOfRange Config.memSize) else k b

end Sys2Proof.Machine
end

