-- ==== Sys2Proof/Machine/Flags.lean ====
section
/-! DEFINITION. The computations behind the flags: the signed-add law with its overflow (rule R264), the comparison
(rule R340), and the conditions of the jumps (rules R361 and R362). -/

namespace Sys2Proof.Machine

/-- What a signed add gives: the new sign and magnitude, and whether OV is set. -/
structure Sum where
  sign : Sign
  mag : Nat
  overflow : Bool
  deriving DecidableEq, Repr

/-- signedAdd (R264) of the integer `d` to a register of sign `rs`, value `rv` and magnitude width `w`. Overflow keeps the
low `w` bits of the true magnitude with the true sign; a zero sum keeps the register's sign. -/
def signedAdd (rs : Sign) (rv d : Int) (w : Nat) : Sum :=
  let t := rv + d
  if 2 ^ w ≤ t.natAbs then ⟨Sign.ofInt t rs, t.natAbs % 2 ^ w, true⟩
  else if t = 0 then ⟨rs, 0, false⟩
  else ⟨Sign.ofInt t rs, t.natAbs, false⟩

/-- OV after an add: set on overflow, never cleared (R50, R264). -/
def State.orOv (s : State) (overflow : Bool) : State := s.setOv (s.ov || overflow)

/-- The comparison of two values (R340). -/
def compareVals (a b : Int) : Indicator :=
  if a < b then .less else if a = b then .equal else .greater

/-- The code of CI: 0 unset, 1 less, 2 equal, 3 greater (R51). -/
def Indicator.code : Indicator → BitVec 2
  | .unset => 0
  | .less => 1
  | .equal => 2
  | .greater => 3

/-- The conditions of opcodes 40..47, F = 0..5 (R362). -/
inductive SignTest where
  | n
  | z
  | p
  | nn
  | nz
  | np
  deriving DecidableEq, Repr

/-- The condition on the numeric value, in which -0 is zero (R362). -/
def SignTest.holds : SignTest → Int → Bool
  | .n, v => decide (v < 0)
  | .z, v => decide (v = 0)
  | .p, v => decide (v > 0)
  | .nn, v => decide (v ≥ 0)
  | .nz, v => decide (v ≠ 0)
  | .np, v => decide (v ≤ 0)

end Sys2Proof.Machine
end

