-- ==== Sys2Proof/Machine/Arith.lean ====
section
/-! DEFINITION. ADD, SUB, MUL and DIV (rules R260 to R264). -/

namespace Sys2Proof.Machine

/-- x[r] <- signedAdd(x[r], d, 30) for r = A or X (R260, R261, R300). -/
def addFull (r : FullReg) (d : Int) (s : State) : Result :=
  let sum := signedAdd (s.full r).sign (s.full r).val d Config.magBits
  finish ((s.setFull r (Word.ofMag sum.sign sum.mag)).orOv sum.overflow)

/-- The product in A:X (R262, R84): both halves get the XOR of the signs. -/
def multiply (v : Word) (s : State) : Result :=
  let p := s.a.mag * v.mag
  let sg := s.a.sign.xor v.sign
  finish ((s.setFull .a (Word.ofMag sg (p / 2 ^ 30))).setFull .x (Word.ofMag sg (p % 2 ^ 30)))

/-- The quotient of A:X in A and the remainder in X (R263). Division by zero and a quotient of 2^30 or more set OV and
leave A and X alone. -/
def divide (v : Word) (s : State) : Result :=
  if v.mag = 0 ∨ v.mag ≤ s.a.mag then finish (s.setOv true)
  else
    let n := s.a.mag * 2 ^ 30 + s.x.mag
    finish ((s.setFull .a (Word.ofMag (s.a.sign.xor v.sign) (n / v.mag))).setFull .x
      (Word.ofMag s.a.sign (n % v.mag)))

/-- ADD (R260): A <- A + V; a carry out of 30 bits sets OV. -/
def execAdd (m : Addr) (f : FieldSpec) (s : State) : Result :=
  withCell m f s fun _ w => addFull .a (fieldView w f).val s

/-- SUB (R261): A <- A - V, as the add of the negated view. -/
def execSub (m : Addr) (f : FieldSpec) (s : State) : Result :=
  withCell m f s fun _ w => addFull .a (negate (fieldView w f)).val s

/-- MUL (R262): A:X <- A times V. -/
def execMul (m : Addr) (f : FieldSpec) (s : State) : Result :=
  withCell m f s fun _ w => multiply (fieldView w f) s

/-- DIV (R263): A <- A:X div V, X <- A:X mod V. -/
def execDiv (m : Addr) (f : FieldSpec) (s : State) : Result :=
  withCell m f s fun _ w => divide (fieldView w f) s

end Sys2Proof.Machine
end

