-- ==== Sys2Proof/Machine/Compare.lean ====
section
/-! DEFINITION. Compares (rules R340 to R349). -/

namespace Sys2Proof.Machine

/-- The compare family (R340): the same field of the register's word and of the cell, by value; only CI is written. -/
def compareField (rw : Word) (m : Addr) (f : FieldSpec) (s : State) : Result :=
  withCell m f s fun _ w => finish (s.setCi (compareVals (fieldView rw f).val (fieldView w f).val))

/-- CMPA (R341): A with the cell. -/
def execCmpa (m : Addr) (f : FieldSpec) (s : State) : Result := compareField s.a m f s

/-- CMP1 (R342): pad(I1) with the cell. -/
def execCmp1 (m : Addr) (f : FieldSpec) (s : State) : Result := compareField (pad s.i1) m f s

/-- CMP2 (R343): pad(I2) with the cell. -/
def execCmp2 (m : Addr) (f : FieldSpec) (s : State) : Result := compareField (pad s.i2) m f s

/-- CMP3 (R344): pad(I3) with the cell. -/
def execCmp3 (m : Addr) (f : FieldSpec) (s : State) : Result := compareField (pad s.i3) m f s

/-- CMP4 (R345): pad(I4) with the cell. -/
def execCmp4 (m : Addr) (f : FieldSpec) (s : State) : Result := compareField (pad s.i4) m f s

/-- CMP5 (R346): pad(I5) with the cell. -/
def execCmp5 (m : Addr) (f : FieldSpec) (s : State) : Result := compareField (pad s.i5) m f s

/-- CMP6 (R347): pad(I6) with the cell. -/
def execCmp6 (m : Addr) (f : FieldSpec) (s : State) : Result := compareField (pad s.i6) m f s

/-- CMPX (R348): X with the cell. -/
def execCmpx (m : Addr) (f : FieldSpec) (s : State) : Result := compareField s.x m f s

end Sys2Proof.Machine
end

