-- ==== Sys2Proof/Machine/Control.lean ====
section
/-! DEFINITION. NOP, HLT, NUM, CHAR and the I/O instructions (rules R460 to R470). -/

namespace Sys2Proof.Machine

/-- The device look-up of an I/O instruction (R464 to R468): an absent unit raises NoDevice. The behaviour of a unit that
is present is outside the spec (R470), so it is refused; the admitted registry is empty (R9). -/
def deviceHook (u : Byte) : Result :=
  if u.toNat ∈ Config.devices then .refused (.deviceBehaviour u.toNat) else raise (.noDevice u.toNat)

/-- NOP (R460): only pc <- next. -/
def execNop (_m : Addr) (_f : Byte) (s : State) : Result := finish s

/-- HLT (R461): HALT <- 1 and pc <- next. -/
def execHlt (_m : Addr) (s : State) : Result := finish s.setHalt

/-- NUM (R462): out of scope, always InvalidOpcode(64·5 + 0). -/
def execNum (_m : Addr) (_s : State) : Result := raise (.invalidOpcode 320)

/-- CHAR (R463): out of scope, always InvalidOpcode(64·5 + 1). -/
def execChar (_m : Addr) (_s : State) : Result := raise (.invalidOpcode 321)

/-- JBUS (R464): jump if unit busy. -/
def execJbus (_m : Addr) (u : Byte) (_s : State) : Result := deviceHook u

/-- IOC (R465): I/O control. -/
def execIoc (_m : Addr) (u : Byte) (_s : State) : Result := deviceHook u

/-- IN (R466): input from a unit. -/
def execInp (_m : Addr) (u : Byte) (_s : State) : Result := deviceHook u

/-- OUT (R467): output to a unit. -/
def execOut (_m : Addr) (u : Byte) (_s : State) : Result := deviceHook u

/-- JRED (R468): jump if unit ready. -/
def execJred (_m : Addr) (u : Byte) (_s : State) : Result := deviceHook u

end Sys2Proof.Machine
end

