-- ==== Sys2Proof/Machine/Jump.lean ====
section
/-! DEFINITION. Jumps (rules R360 to R420). -/

namespace Sys2Proof.Machine

/-- J <- (+, next), with the address of the instruction after the jump (R360). -/
def link (s : State) : State := s.setJ (Half.ofMag .plus s.nextAddr)

/-- A jump (R360): not taken, only pc <- next; taken, the target is checked, then the writes `taken` and pc <- ea. -/
def jumpIf (cond : Bool) (taken : State → State) (m : Addr) (s : State) : Result :=
  if cond then withAddress (ea m s).val fun t => .next ((taken s).setPc t) else finish s

/-- A register jump (R362): the condition on the register's numeric value. -/
def jumpOn (t : SignTest) (v : Int) (m : Addr) (s : State) : Result := jumpIf (t.holds v) link m s

/-- JMP (R363): always taken. -/
def execJmp (m : Addr) (s : State) : Result := jumpIf true link m s

/-- JSJ (R364): always taken; J is left alone. -/
def execJsj (m : Addr) (s : State) : Result := jumpIf true id m s

/-- JOV (R365): taken when OV = 1, and then OV <- 0. -/
def execJov (m : Addr) (s : State) : Result := jumpIf s.ov (fun t => (link t).setOv false) m s

/-- JNOV (R366): taken when OV = 0. -/
def execJnov (m : Addr) (s : State) : Result := jumpIf (!s.ov) link m s

/-- JL (R367): taken when CI is LESS. -/
def execJl (m : Addr) (s : State) : Result := jumpIf (s.ci == .less) link m s

/-- JE (R368): taken when CI is EQUAL. -/
def execJe (m : Addr) (s : State) : Result := jumpIf (s.ci == .equal) link m s

/-- JG (R369): taken when CI is GREATER. -/
def execJg (m : Addr) (s : State) : Result := jumpIf (s.ci == .greater) link m s

/-- JGE (R370): taken when CI is GREATER or EQUAL. -/
def execJge (m : Addr) (s : State) : Result := jumpIf (s.ci == .greater || s.ci == .equal) link m s

/-- JNE (R371): taken when CI is LESS or GREATER. -/
def execJne (m : Addr) (s : State) : Result := jumpIf (s.ci == .less || s.ci == .greater) link m s

/-- JLE (R372): taken when CI is LESS or EQUAL. -/
def execJle (m : Addr) (s : State) : Result := jumpIf (s.ci == .less || s.ci == .equal) link m s

/-- JAN (R373): taken when A is negative. -/
def execJan (m : Addr) (s : State) : Result := jumpOn .n s.a.val m s

/-- JAZ (R374): taken when A is zero. -/
def execJaz (m : Addr) (s : State) : Result := jumpOn .z s.a.val m s

/-- JAP (R375): taken when A is positive. -/
def execJap (m : Addr) (s : State) : Result := jumpOn .p s.a.val m s

/-- JANN (R376): taken when A is non-negative. -/
def execJann (m : Addr) (s : State) : Result := jumpOn .nn s.a.val m s

/-- JANZ (R377): taken when A is non-zero. -/
def execJanz (m : Addr) (s : State) : Result := jumpOn .nz s.a.val m s

/-- JANP (R378): taken when A is non-positive. -/
def execJanp (m : Addr) (s : State) : Result := jumpOn .np s.a.val m s

/-- J1N (R379): taken when I1 is negative. -/
def execJ1n (m : Addr) (s : State) : Result := jumpOn .n s.i1.val m s

/-- J1Z (R380): taken when I1 is zero. -/
def execJ1z (m : Addr) (s : State) : Result := jumpOn .z s.i1.val m s

/-- J1P (R381): taken when I1 is positive. -/
def execJ1p (m : Addr) (s : State) : Result := jumpOn .p s.i1.val m s

/-- J1NN (R382): taken when I1 is non-negative. -/
def execJ1nn (m : Addr) (s : State) : Result := jumpOn .nn s.i1.val m s

/-- J1NZ (R383): taken when I1 is non-zero. -/
def execJ1nz (m : Addr) (s : State) : Result := jumpOn .nz s.i1.val m s

/-- J1NP (R384): taken when I1 is non-positive. -/
def execJ1np (m : Addr) (s : State) : Result := jumpOn .np s.i1.val m s

/-- J2N (R385): taken when I2 is negative. -/
def execJ2n (m : Addr) (s : State) : Result := jumpOn .n s.i2.val m s

/-- J2Z (R386): taken when I2 is zero. -/
def execJ2z (m : Addr) (s : State) : Result := jumpOn .z s.i2.val m s

/-- J2P (R387): taken when I2 is positive. -/
def execJ2p (m : Addr) (s : State) : Result := jumpOn .p s.i2.val m s

/-- J2NN (R388): taken when I2 is non-negative. -/
def execJ2nn (m : Addr) (s : State) : Result := jumpOn .nn s.i2.val m s

/-- J2NZ (R389): taken when I2 is non-zero. -/
def execJ2nz (m : Addr) (s : State) : Result := jumpOn .nz s.i2.val m s

/-- J2NP (R390): taken when I2 is non-positive. -/
def execJ2np (m : Addr) (s : State) : Result := jumpOn .np s.i2.val m s

/-- J3N (R391): taken when I3 is negative. -/
def execJ3n (m : Addr) (s : State) : Result := jumpOn .n s.i3.val m s

/-- J3Z (R392): taken when I3 is zero. -/
def execJ3z (m : Addr) (s : State) : Result := jumpOn .z s.i3.val m s

/-- J3P (R393): taken when I3 is positive. -/
def execJ3p (m : Addr) (s : State) : Result := jumpOn .p s.i3.val m s

/-- J3NN (R394): taken when I3 is non-negative. -/
def execJ3nn (m : Addr) (s : State) : Result := jumpOn .nn s.i3.val m s

/-- J3NZ (R395): taken when I3 is non-zero. -/
def execJ3nz (m : Addr) (s : State) : Result := jumpOn .nz s.i3.val m s

/-- J3NP (R396): taken when I3 is non-positive. -/
def execJ3np (m : Addr) (s : State) : Result := jumpOn .np s.i3.val m s

/-- J4N (R397): taken when I4 is negative. -/
def execJ4n (m : Addr) (s : State) : Result := jumpOn .n s.i4.val m s

/-- J4Z (R398): taken when I4 is zero. -/
def execJ4z (m : Addr) (s : State) : Result := jumpOn .z s.i4.val m s

/-- J4P (R399): taken when I4 is positive. -/
def execJ4p (m : Addr) (s : State) : Result := jumpOn .p s.i4.val m s

/-- J4NN (R400): taken when I4 is non-negative. -/
def execJ4nn (m : Addr) (s : State) : Result := jumpOn .nn s.i4.val m s

/-- J4NZ (R401): taken when I4 is non-zero. -/
def execJ4nz (m : Addr) (s : State) : Result := jumpOn .nz s.i4.val m s

/-- J4NP (R402): taken when I4 is non-positive. -/
def execJ4np (m : Addr) (s : State) : Result := jumpOn .np s.i4.val m s

/-- J5N (R403): taken when I5 is negative. -/
def execJ5n (m : Addr) (s : State) : Result := jumpOn .n s.i5.val m s

/-- J5Z (R404): taken when I5 is zero. -/
def execJ5z (m : Addr) (s : State) : Result := jumpOn .z s.i5.val m s

/-- J5P (R405): taken when I5 is positive. -/
def execJ5p (m : Addr) (s : State) : Result := jumpOn .p s.i5.val m s

/-- J5NN (R406): taken when I5 is non-negative. -/
def execJ5nn (m : Addr) (s : State) : Result := jumpOn .nn s.i5.val m s

/-- J5NZ (R407): taken when I5 is non-zero. -/
def execJ5nz (m : Addr) (s : State) : Result := jumpOn .nz s.i5.val m s

/-- J5NP (R408): taken when I5 is non-positive. -/
def execJ5np (m : Addr) (s : State) : Result := jumpOn .np s.i5.val m s

/-- J6N (R409): taken when I6 is negative. -/
def execJ6n (m : Addr) (s : State) : Result := jumpOn .n s.i6.val m s

/-- J6Z (R410): taken when I6 is zero. -/
def execJ6z (m : Addr) (s : State) : Result := jumpOn .z s.i6.val m s

/-- J6P (R411): taken when I6 is positive. -/
def execJ6p (m : Addr) (s : State) : Result := jumpOn .p s.i6.val m s

/-- J6NN (R412): taken when I6 is non-negative. -/
def execJ6nn (m : Addr) (s : State) : Result := jumpOn .nn s.i6.val m s

/-- J6NZ (R413): taken when I6 is non-zero. -/
def execJ6nz (m : Addr) (s : State) : Result := jumpOn .nz s.i6.val m s

/-- J6NP (R414): taken when I6 is non-positive. -/
def execJ6np (m : Addr) (s : State) : Result := jumpOn .np s.i6.val m s

/-- JXN (R415): taken when X is negative. -/
def execJxn (m : Addr) (s : State) : Result := jumpOn .n s.x.val m s

/-- JXZ (R416): taken when X is zero. -/
def execJxz (m : Addr) (s : State) : Result := jumpOn .z s.x.val m s

/-- JXP (R417): taken when X is positive. -/
def execJxp (m : Addr) (s : State) : Result := jumpOn .p s.x.val m s

/-- JXNN (R418): taken when X is non-negative. -/
def execJxnn (m : Addr) (s : State) : Result := jumpOn .nn s.x.val m s

/-- JXNZ (R419): taken when X is non-zero. -/
def execJxnz (m : Addr) (s : State) : Result := jumpOn .nz s.x.val m s

/-- JXNP (R420): taken when X is non-positive. -/
def execJxnp (m : Addr) (s : State) : Result := jumpOn .np s.x.val m s

end Sys2Proof.Machine
end

