-- ==== Sys2Proof/Machine/Load.lean ====
section
/-! DEFINITION. Load and load negative (rules R200 to R218). -/

namespace Sys2Proof.Machine

/-- The load family for A and X (R200, R210). `g` is applied to the whole word read: the identity for a load, `negate`
for a load negative. -/
def loadFull (g : Word → Word) (r : FullReg) (m : Addr) (f : FieldSpec) (s : State) : Result :=
  withCell m f s fun _ w => finish (s.setFull r (fieldView (g w) f))

/-- The load family for an index register: the field view must fit (R201). -/
def loadIndex (g : Word → Word) (i : IndexReg) (m : Addr) (f : FieldSpec) (s : State) : Result :=
  withCell m f s fun _ w => withHalf (fieldView (g w) f) fun h => finish (s.setIndex i h)

/-- LDA (R202): A <- field view. -/
def execLda (m : Addr) (f : FieldSpec) (s : State) : Result := loadFull id .a m f s

/-- LD1 (R203): I1 <- field view. -/
def execLd1 (m : Addr) (f : FieldSpec) (s : State) : Result := loadIndex id .i1 m f s

/-- LD2 (R204): I2 <- field view. -/
def execLd2 (m : Addr) (f : FieldSpec) (s : State) : Result := loadIndex id .i2 m f s

/-- LD3 (R205): I3 <- field view. -/
def execLd3 (m : Addr) (f : FieldSpec) (s : State) : Result := loadIndex id .i3 m f s

/-- LD4 (R206): I4 <- field view. -/
def execLd4 (m : Addr) (f : FieldSpec) (s : State) : Result := loadIndex id .i4 m f s

/-- LD5 (R207): I5 <- field view. -/
def execLd5 (m : Addr) (f : FieldSpec) (s : State) : Result := loadIndex id .i5 m f s

/-- LD6 (R208): I6 <- field view. -/
def execLd6 (m : Addr) (f : FieldSpec) (s : State) : Result := loadIndex id .i6 m f s

/-- LDX (R209): X <- field view. -/
def execLdx (m : Addr) (f : FieldSpec) (s : State) : Result := loadFull id .x m f s

/-- LDAN (R211): A <- field view of the negated cell. -/
def execLdan (m : Addr) (f : FieldSpec) (s : State) : Result := loadFull negate .a m f s

/-- LD1N (R212): I1 <- field view of the negated cell. -/
def execLd1n (m : Addr) (f : FieldSpec) (s : State) : Result := loadIndex negate .i1 m f s

/-- LD2N (R213): I2 <- field view of the negated cell. -/
def execLd2n (m : Addr) (f : FieldSpec) (s : State) : Result := loadIndex negate .i2 m f s

/-- LD3N (R214): I3 <- field view of the negated cell. -/
def execLd3n (m : Addr) (f : FieldSpec) (s : State) : Result := loadIndex negate .i3 m f s

/-- LD4N (R215): I4 <- field view of the negated cell. -/
def execLd4n (m : Addr) (f : FieldSpec) (s : State) : Result := loadIndex negate .i4 m f s

/-- LD5N (R216): I5 <- field view of the negated cell. -/
def execLd5n (m : Addr) (f : FieldSpec) (s : State) : Result := loadIndex negate .i5 m f s

/-- LD6N (R217): I6 <- field view of the negated cell. -/
def execLd6n (m : Addr) (f : FieldSpec) (s : State) : Result := loadIndex negate .i6 m f s

/-- LDXN (R218): X <- field view of the negated cell. -/
def execLdxn (m : Addr) (f : FieldSpec) (s : State) : Result := loadFull negate .x m f s

end Sys2Proof.Machine
end

