-- ==== Sys2Proof/Machine/Shift.lean ====
section
/-! DEFINITION. Shifts and MOVE (rules R440 to R450). -/

namespace Sys2Proof.Machine

/-- b[1+n..] ++ [0]*n (R440). -/
def shiftLeft (l : List Byte) (n : Nat) : List Byte := l.drop n ++ List.replicate n 0

/-- [0]*n ++ b[..len-n] (R440). -/
def shiftRight (l : List Byte) (n : Nat) : List Byte := List.replicate n 0 ++ l.take (l.length - n)

/-- b[1+n..] ++ b[..n] (R440). -/
def rotateLeft (l : List Byte) (n : Nat) : List Byte := l.drop n ++ l.take n

/-- The last n bytes, then the rest (R440). -/
def rotateRight (l : List Byte) (n : Nat) : List Byte := l.drop (l.length - n) ++ l.take (l.length - n)

/-- The shifts of A's five bytes; the sign stays (R440). -/
def shiftA (op : List Byte → Nat → List Byte) (m : Addr) (s : State) : Result :=
  withShiftCount m s 5 fun n => finish (s.setFull .a (Word.ofBytes s.a.sign (op s.a.bytes n)))

/-- The shifts of the ten bytes of A and X, A the high half (R84); the signs stay (R440). -/
def shiftAX (op : List Byte → Nat → List Byte) (m : Addr) (s : State) : Result :=
  withShiftCount m s 10 fun n =>
    let ax := op (s.a.bytes ++ s.x.bytes) n
    finish ((s.setFull .a (Word.ofBytes s.a.sign (ax.take 5))).setFull .x (Word.ofBytes s.x.sign (ax.drop 5)))

/-- MOVE's copy of `n` words (R450): a snapshot of the source run is written to the run at I1's value, and I1 advances
past it with the sign +. A count of 0 only advances PC and checks nothing. -/
def moveRun (n : Nat) (m : Addr) (s : State) : Result :=
  if n = 0 then finish s
  else
    withRun (ea m s).val n fun src =>
      withRun s.i1.val n fun dst =>
        finish ((s.setMem (s.mem.writeRun dst (s.mem.readRun src n))).setIndex .i1 (Half.ofMag .plus (dst + n)))

/-- SLA (R441): A left, filling with zeros. -/
def execSla (m : Addr) (s : State) : Result := shiftA shiftLeft m s

/-- SRA (R442): A right, filling with zeros. -/
def execSra (m : Addr) (s : State) : Result := shiftA shiftRight m s

/-- SLAX (R443): A:X left, filling with zeros. -/
def execSlax (m : Addr) (s : State) : Result := shiftAX shiftLeft m s

/-- SRAX (R444): A:X right, filling with zeros. -/
def execSrax (m : Addr) (s : State) : Result := shiftAX shiftRight m s

/-- SLC (R445): A:X left circularly. -/
def execSlc (m : Addr) (s : State) : Result := shiftAX rotateLeft m s

/-- SRC (R446): A:X right circularly. -/
def execSrc (m : Addr) (s : State) : Result := shiftAX rotateRight m s

/-- MOVE (R450): copy n words from ea to the address in I1. -/
def execMove (m : Addr) (n : Byte) (s : State) : Result := moveRun n.toNat m s

end Sys2Proof.Machine
end

