-- ==== Sys2Proof/Machine/Store.lean ====
section
/-! DEFINITION. Stores (rules R220 to R230). -/

namespace Sys2Proof.Machine

/-- The store family (R220): the word at ea with its field replaced by the low-order bytes of `src` (and by its sign when
L = 0) is written back; no register changes. -/
def store (src : Word) (m : Addr) (f : FieldSpec) (s : State) : Result :=
  withCell m f s fun a old => finish (s.setMem (s.mem.write a (applyField old f src)))

/-- STA (R221): the source is A. -/
def execSta (m : Addr) (f : FieldSpec) (s : State) : Result := store s.a m f s

/-- ST1 (R222): the source is pad(I1). -/
def execSt1 (m : Addr) (f : FieldSpec) (s : State) : Result := store (pad s.i1) m f s

/-- ST2 (R223): the source is pad(I2). -/
def execSt2 (m : Addr) (f : FieldSpec) (s : State) : Result := store (pad s.i2) m f s

/-- ST3 (R224): the source is pad(I3). -/
def execSt3 (m : Addr) (f : FieldSpec) (s : State) : Result := store (pad s.i3) m f s

/-- ST4 (R225): the source is pad(I4). -/
def execSt4 (m : Addr) (f : FieldSpec) (s : State) : Result := store (pad s.i4) m f s

/-- ST5 (R226): the source is pad(I5). -/
def execSt5 (m : Addr) (f : FieldSpec) (s : State) : Result := store (pad s.i5) m f s

/-- ST6 (R227): the source is pad(I6). -/
def execSt6 (m : Addr) (f : FieldSpec) (s : State) : Result := store (pad s.i6) m f s

/-- STX (R228): the source is X. -/
def execStx (m : Addr) (f : FieldSpec) (s : State) : Result := store s.x m f s

/-- STJ (R229): the source is pad(J), the field always (0:2). -/
def execStj (m : Addr) (s : State) : Result := store (pad s.j) m .stj s

/-- STZ (R230): the source is +0. -/
def execStz (m : Addr) (f : FieldSpec) (s : State) : Result := store .zero m f s

end Sys2Proof.Machine
end

