-- ==== Sys2Proof/Machine/Transfer.lean ====
section
/-! DEFINITION. Address transfer: INC, DEC, ENT and ENN (rules R300 to R333). -/

namespace Sys2Proof.Machine

/-- x[Ii] <- signedAdd(x[Ii], d, 12) (R300). -/
def addIndex (i : IndexReg) (d : Int) (s : State) : Result :=
  let sum := signedAdd (s.index i).sign (s.index i).val d Config.halfMagBits
  finish ((s.setIndex i (Half.ofMag sum.sign sum.mag)).orOv sum.overflow)

/-- ENT and ENN for A and X (R301): `v` is the effective address as a signed word, negated for ENN. -/
def enterFull (r : FullReg) (v : Word) (s : State) : Result := finish (s.setFull r v)

/-- ENT and ENN for an index register (R301): the value must fit. -/
def enterIndex (i : IndexReg) (v : Word) (s : State) : Result := withHalf v fun h => finish (s.setIndex i h)

/-- INCA (R302): A <- A + ea. -/
def execInca (m : Addr) (s : State) : Result := addFull .a (ea m s).val s

/-- DECA (R303): A <- A - ea. -/
def execDeca (m : Addr) (s : State) : Result := addFull .a (-(ea m s).val) s

/-- ENTA (R304): A <- ea. -/
def execEnta (m : Addr) (s : State) : Result := enterFull .a (ea m s).word s

/-- ENNA (R305): A <- -ea. -/
def execEnna (m : Addr) (s : State) : Result := enterFull .a (negate (ea m s).word) s

/-- INC1 (R306): I1 <- I1 + ea. -/
def execInc1 (m : Addr) (s : State) : Result := addIndex .i1 (ea m s).val s

/-- DEC1 (R307): I1 <- I1 - ea. -/
def execDec1 (m : Addr) (s : State) : Result := addIndex .i1 (-(ea m s).val) s

/-- ENT1 (R308): I1 <- ea. -/
def execEnt1 (m : Addr) (s : State) : Result := enterIndex .i1 (ea m s).word s

/-- ENN1 (R309): I1 <- -ea. -/
def execEnn1 (m : Addr) (s : State) : Result := enterIndex .i1 (negate (ea m s).word) s

/-- INC2 (R310): I2 <- I2 + ea. -/
def execInc2 (m : Addr) (s : State) : Result := addIndex .i2 (ea m s).val s

/-- DEC2 (R311): I2 <- I2 - ea. -/
def execDec2 (m : Addr) (s : State) : Result := addIndex .i2 (-(ea m s).val) s

/-- ENT2 (R312): I2 <- ea. -/
def execEnt2 (m : Addr) (s : State) : Result := enterIndex .i2 (ea m s).word s

/-- ENN2 (R313): I2 <- -ea. -/
def execEnn2 (m : Addr) (s : State) : Result := enterIndex .i2 (negate (ea m s).word) s

/-- INC3 (R314): I3 <- I3 + ea. -/
def execInc3 (m : Addr) (s : State) : Result := addIndex .i3 (ea m s).val s

/-- DEC3 (R315): I3 <- I3 - ea. -/
def execDec3 (m : Addr) (s : State) : Result := addIndex .i3 (-(ea m s).val) s

/-- ENT3 (R316): I3 <- ea. -/
def execEnt3 (m : Addr) (s : State) : Result := enterIndex .i3 (ea m s).word s

/-- ENN3 (R317): I3 <- -ea. -/
def execEnn3 (m : Addr) (s : State) : Result := enterIndex .i3 (negate (ea m s).word) s

/-- INC4 (R318): I4 <- I4 + ea. -/
def execInc4 (m : Addr) (s : State) : Result := addIndex .i4 (ea m s).val s

/-- DEC4 (R319): I4 <- I4 - ea. -/
def execDec4 (m : Addr) (s : State) : Result := addIndex .i4 (-(ea m s).val) s

/-- ENT4 (R320): I4 <- ea. -/
def execEnt4 (m : Addr) (s : State) : Result := enterIndex .i4 (ea m s).word s

/-- ENN4 (R321): I4 <- -ea. -/
def execEnn4 (m : Addr) (s : State) : Result := enterIndex .i4 (negate (ea m s).word) s

/-- INC5 (R322): I5 <- I5 + ea. -/
def execInc5 (m : Addr) (s : State) : Result := addIndex .i5 (ea m s).val s

/-- DEC5 (R323): I5 <- I5 - ea. -/
def execDec5 (m : Addr) (s : State) : Result := addIndex .i5 (-(ea m s).val) s

/-- ENT5 (R324): I5 <- ea. -/
def execEnt5 (m : Addr) (s : State) : Result := enterIndex .i5 (ea m s).word s

/-- ENN5 (R325): I5 <- -ea. -/
def execEnn5 (m : Addr) (s : State) : Result := enterIndex .i5 (negate (ea m s).word) s

/-- INC6 (R326): I6 <- I6 + ea. -/
def execInc6 (m : Addr) (s : State) : Result := addIndex .i6 (ea m s).val s

/-- DEC6 (R327): I6 <- I6 - ea. -/
def execDec6 (m : Addr) (s : State) : Result := addIndex .i6 (-(ea m s).val) s

/-- ENT6 (R328): I6 <- ea. -/
def execEnt6 (m : Addr) (s : State) : Result := enterIndex .i6 (ea m s).word s

/-- ENN6 (R329): I6 <- -ea. -/
def execEnn6 (m : Addr) (s : State) : Result := enterIndex .i6 (negate (ea m s).word) s

/-- INCX (R330): X <- X + ea. -/
def execIncx (m : Addr) (s : State) : Result := addFull .x (ea m s).val s

/-- DECX (R331): X <- X - ea. -/
def execDecx (m : Addr) (s : State) : Result := addFull .x (-(ea m s).val) s

/-- ENTX (R332): X <- ea. -/
def execEntx (m : Addr) (s : State) : Result := enterFull .x (ea m s).word s

/-- ENNX (R333): X <- -ea. -/
def execEnnx (m : Addr) (s : State) : Result := enterFull .x (negate (ea m s).word) s

end Sys2Proof.Machine
end

