-- ==== Sys2Proof/Machine/Fetch.lean ====
section
/-! DEFINITION. Fetching and decoding the instruction at PC (rules R500, R511 and R512), what a halted machine answers
(rule R515), and the placing of an instruction word where the next step fetches it. -/

namespace Sys2Proof.Machine

/-- What the fetch and decode part of a step gives: an instruction to run, or a fault. -/
inductive Fetched where
  | run (i : Instr)
  | stop (f : Fault)
  deriving DecidableEq, Repr

/-- The fault of a decode error (R503, R504). -/
def Reject.fault : Reject → Fault
  | .invalidIndex i => .invalidIndex i
  | .invalidFieldSpec f => .invalidFieldSpec f

/-- Fetch and decode (R500): PC outside memory raises AddressOutOfRange(PC) before anything is decoded (R512); then the
legality checks in the order of R511. -/
def fetch (s : State) : Fetched :=
  if s.pc.toNat < Config.memSize then
    match decode (s.mem.read s.pc.toNat) with
    | .ok i => .run i
    | .reject r => .stop (Reject.fault r)
  else .stop (.addressOutOfRange s.pc.toNat)

/-- A step of the halted machine changes nothing (R515). Its status is HALTED (`statusOf` of Machine/HostPort.lean). -/
def haltedStep (s : State) : Result := .next s

/-- The state in which the next step fetches the word `w`: stored at PC, on a machine that is not halted. A PC outside
memory, where nothing can be stored, becomes the start address (log entry 3). -/
def placeWord (s : State) (w : Word) : State :=
  let pc := if s.pc.toNat < Config.memSize then s.pc else Config.start
  { s with pc := pc, halt := false, mem := s.mem.write pc.toNat w }

end Sys2Proof.Machine
end

