-- ==== Sys2Proof/Machine/Step.lean ====
section
/-! DEFINITION. One step of the machine (rule R500). -/

namespace Sys2Proof.Machine

/-- `step` (R500): on a halted machine nothing changes (R515); else fetch, decode and execute the instruction at PC. -/
def step (s : State) : Host.Outcome State Fault Refusal :=
  if s.halt then haltedStep s
  else
    match fetch s with
    | .run i => exec i s
    | .stop f => raise f

/-- The state with an instruction word, numbered as the opcode table numbers its bits, where `step` fetches next. -/
def State.withFetchWord (s : State) (nbits w : Nat) : State := placeWord s (Word.ofEnc (w % 2 ^ nbits))

end Sys2Proof.Machine
end

