-- ==== Sys2Proof/Machine/HostPort.lean ====
section
/-! DEFINITION. The host interface: the status a step returns (rules R500 and R501), the host operations (rules R530 to
R532, R541, R544 and R470), and the run of a program to its end (rule R516). -/

namespace Sys2Proof.Machine

/-- The status names of R501. -/
inductive Status where
  | ok
  | halted
  | invalidIndex
  | invalidFieldSpec
  | invalidOpcode
  | addressOutOfRange
  | indexValueOutOfRange
  | invalidShiftCount
  | noDevice
  deriving DecidableEq, Repr

/-- The numeric code of a status (R501, D23). -/
def Status.code : Status → Nat
  | .ok => 0
  | .halted => 1
  | .invalidIndex => 2
  | .invalidFieldSpec => 3
  | .invalidOpcode => 4
  | .addressOutOfRange => 5
  | .indexValueOutOfRange => 6
  | .invalidShiftCount => 7
  | .noDevice => 8

/-- The status and the info of a fault (R501). -/
def Fault.status : Fault → Status × Int
  | .invalidIndex i => (.invalidIndex, i)
  | .invalidFieldSpec f => (.invalidFieldSpec, f)
  | .invalidOpcode n => (.invalidOpcode, n)
  | .addressOutOfRange a => (.addressOutOfRange, a)
  | .indexValueOutOfRange v => (.indexValueOutOfRange, v)
  | .invalidShiftCount v => (.invalidShiftCount, v)
  | .noDevice u => (.noDevice, u)

/-- What the core answers a host operation. -/
inductive Reply where
  /-- `reset` and `load` return nothing (R530). -/
  | done
  /-- The status and info of a step (R500). -/
  | status (st : Status) (info : Int)
  /-- A full register or a cell, with its sign (R531). -/
  | word (w : Word)
  /-- An index register or J, with its sign (R531). -/
  | half (h : Half)
  | pc (p : BitVec 12)
  | flag (b : Bool)
  | indicator (c : Indicator)
  /-- The operation is rejected and the state is unchanged. -/
  | refused (r : Refusal)
  deriving DecidableEq, Repr

/-- The status and info a step returns with its outcome (R500): HALTED when the machine is halted after it, which is the
step of HLT and every step of a halted machine (R461, R515); OK for every other step that completes; else the fault. -/
def statusOf : Result → Reply
  | .next s => if s.halt then .status .halted 0 else .status .ok 0
  | .fault f => .status f.status.1 f.status.2
  | .refused r => .refused r

/-- The core as the host holds it: its state, and whether a step has been taken since reset, after which `load` is
refused (R532). This flag is no part of the architectural state (R53) and no instruction reads it. -/
structure Session where
  core : State
  stepped : Bool
  deriving DecidableEq, Repr

/-- The core right after `State.reset`. -/
def Session.initial : Session := ⟨State.reset, false⟩

/-- The host operations (R530); the queries of R531 read a register, a cell, PC, OV, CI or HALT. -/
inductive HostOp where
  /-- `reset(start)`, with the device registry of the configuration as the unit numbers it holds (R9, R470). -/
  | reset (start : Int) (devices : List Nat)
  | load (addr : Int) (w : Word)
  | step
  | queryReg (r : Reg)
  | queryCell (addr : Int)
  | queryPc
  | queryOv
  | queryCi
  | queryHalt
  deriving DecidableEq, Repr

/-- 0 <= a < 4000 (R82). -/
def inMemory (a : Int) : Bool := decide (0 ≤ a) && decide (a < Config.memSize)

/-- `reset(start)` (R540, R541): at any time; refused for a start outside memory and for a registry that is not empty
(R470). -/
def Session.resetOp (c : Session) (start : Int) (devices : List Nat) : Reply × Session :=
  if devices ≠ [] then (.refused .devicesNotSupported, c)
  else if inMemory start then (.done, ⟨State.resetAt (.ofNat 12 start.toNat), false⟩)
  else (.refused (.startOutOfRange start), c)

/-- `load(addr, w)` (R532): M[addr] <- w, only between reset and the first step. -/
def Session.loadOp (c : Session) (addr : Int) (w : Word) : Reply × Session :=
  if c.stepped then (.refused .loadAfterStep, c)
  else if inMemory addr then (.done, { c with core := c.core.setMem (c.core.mem.write addr.toNat w) })
  else (.refused (.loadOutOfRange addr), c)

/-- The state after a step's outcome: a fault or a refusal leaves the state as it was before the step (R502). -/
def stateAfter (s : State) : Result → State
  | .next t => t
  | .fault _ => s
  | .refused _ => s

/-- `step()` (R500). -/
def Session.stepOp (c : Session) : Reply × Session :=
  (statusOf (Machine.step c.core), ⟨stateAfter c.core (Machine.step c.core), true⟩)

/-- The query of a register (R531). -/
def queryReply (s : State) : Reg → Reply
  | .full r => .word (s.full r)
  | .index i => .half (s.index i)
  | .jump => .half s.j

/-- The query of a cell (R531): an address outside memory is refused. -/
def cellReply (s : State) (addr : Int) : Reply :=
  if inMemory addr then .word (s.mem.read addr.toNat) else .refused (.queryOutOfRange addr)

/-- One host operation (R530). No query changes the state (R55, R531). -/
def Session.perform (c : Session) : HostOp → Reply × Session
  | .reset start devices => c.resetOp start devices
  | .load addr w => c.loadOp addr w
  | .step => c.stepOp
  | .queryReg r => (queryReply c.core r, c)
  | .queryCell addr => (cellReply c.core addr, c)
  | .queryPc => (.pc c.core.pc, c)
  | .queryOv => (.flag c.core.ov, c)
  | .queryCi => (.indicator c.core.ci, c)
  | .queryHalt => (.flag c.core.halt, c)

/-- The loads of a program, in order; the first refusal stops them (R543, R544). -/
def Session.loadAll (c : Session) : List (Int × Word) → Reply × Session
  | [] => (.done, c)
  | (addr, w) :: rest =>
    match c.loadOp addr w with
    | (.done, d) => Session.loadAll d rest
    | stopped => stopped

/-- The boot order of R544: `reset(start)`, then the loads. -/
def Session.boot (c : Session) (start : Int) (program : List (Int × Word)) : Reply × Session :=
  match c.resetOp start Config.devices with
  | (.done, d) => d.loadAll program
  | stopped => stopped

/-- At most `fuel` steps, ending at the first whose status is not OK (R516): the status that ended the run (OK when the
fuel ran out first) and the session after it. -/
def Session.run (c : Session) : Nat → Reply × Session
  | 0 => (.status .ok 0, c)
  | fuel + 1 =>
    match c.stepOp with
    | (.status .ok _, d) => Session.run d fuel
    | ended => ended

end Sys2Proof.Machine
end

