-- ==== Sys2Proof/Safety.lean ====
section
/-! DEFINITION. What counts as a legal state and a legal run, in the terms the statements use. -/

namespace Sys2Proof.Machine

/-- The invariant of every state a run reaches: memory in its canonical form (all cells in [0, 4000)), J's sign + (R46),
and PC at most 4000 (R49, R512). -/
structure State.Inv (s : State) : Prop where
  memCanonical : s.mem.wf = true
  jumpPositive : s.j.sign = .plus
  pcBound : s.pc.toNat ≤ Config.memSize

/-- The states a boot leaves (R544): reset at an admitted start address, then words loaded at addresses in memory. -/
inductive Booted : State → Prop where
  | reset (start : BitVec 12) (h : start.toNat < Config.memSize) : Booted (State.resetAt start)
  | load (s : State) (a : Nat) (w : Word) (hs : Booted s) (h : a < Config.memSize) :
      Booted (s.setMem (s.mem.write a w))

/-- The states that runs reach (R516): a booted state, then steps. -/
inductive Reachable : State → Prop where
  | boot (s : State) (hs : Booted s) : Reachable s
  | step (s t : State) (hs : Reachable s) (h : step s = .next t) : Reachable t

end Sys2Proof.Machine
end

