-- ==== Sys2Proof/Certificates/Slice0/Obligations.lean ====
section
/-! DEFINITION. The statements for the provers, and the terms they are written in. -/

namespace Sys2Proof.Spec

open Sys2Proof.Machine

/-! ## The instructions of a family, by register -/

/-- LDA and LDX. -/
def loadOf : FullReg → Addr → FieldSpec → Instr
  | .a, m, f => .lda m f
  | .x, m, f => .ldx m f

/-- LDAN and LDXN. -/
def loadNegOf : FullReg → Addr → FieldSpec → Instr
  | .a, m, f => .ldan m f
  | .x, m, f => .ldxn m f

/-- STA and STX. -/
def storeOf : FullReg → Addr → FieldSpec → Instr
  | .a, m, f => .sta m f
  | .x, m, f => .stx m f

/-- CMPA and CMPX. -/
def compareOf : FullReg → Addr → FieldSpec → Instr
  | .a, m, f => .cmpa m f
  | .x, m, f => .cmpx m f

/-- INCA and INCX. -/
def incOf : FullReg → Addr → Instr
  | .a, m => .inca m
  | .x, m => .incx m

/-- DECA and DECX. -/
def decOf : FullReg → Addr → Instr
  | .a, m => .deca m
  | .x, m => .decx m

/-- ENTA and ENTX. -/
def entOf : FullReg → Addr → Instr
  | .a, m => .enta m
  | .x, m => .entx m

/-- ENNA and ENNX. -/
def ennOf : FullReg → Addr → Instr
  | .a, m => .enna m
  | .x, m => .ennx m

/-- LD1 to LD6. -/
def loadIdx : IndexReg → Addr → FieldSpec → Instr
  | .i1, m, f => .ld1 m f
  | .i2, m, f => .ld2 m f
  | .i3, m, f => .ld3 m f
  | .i4, m, f => .ld4 m f
  | .i5, m, f => .ld5 m f
  | .i6, m, f => .ld6 m f

/-- LD1N to LD6N. -/
def loadNegIdx : IndexReg → Addr → FieldSpec → Instr
  | .i1, m, f => .ld1n m f
  | .i2, m, f => .ld2n m f
  | .i3, m, f => .ld3n m f
  | .i4, m, f => .ld4n m f
  | .i5, m, f => .ld5n m f
  | .i6, m, f => .ld6n m f

/-- ST1 to ST6. -/
def storeIdx : IndexReg → Addr → FieldSpec → Instr
  | .i1, m, f => .st1 m f
  | .i2, m, f => .st2 m f
  | .i3, m, f => .st3 m f
  | .i4, m, f => .st4 m f
  | .i5, m, f => .st5 m f
  | .i6, m, f => .st6 m f

/-- CMP1 to CMP6. -/
def compareIdx : IndexReg → Addr → FieldSpec → Instr
  | .i1, m, f => .cmp1 m f
  | .i2, m, f => .cmp2 m f
  | .i3, m, f => .cmp3 m f
  | .i4, m, f => .cmp4 m f
  | .i5, m, f => .cmp5 m f
  | .i6, m, f => .cmp6 m f

/-- INC1 to INC6. -/
def incIdx : IndexReg → Addr → Instr
  | .i1, m => .inc1 m
  | .i2, m => .inc2 m
  | .i3, m => .inc3 m
  | .i4, m => .inc4 m
  | .i5, m => .inc5 m
  | .i6, m => .inc6 m

/-- DEC1 to DEC6. -/
def decIdx : IndexReg → Addr → Instr
  | .i1, m => .dec1 m
  | .i2, m => .dec2 m
  | .i3, m => .dec3 m
  | .i4, m => .dec4 m
  | .i5, m => .dec5 m
  | .i6, m => .dec6 m

/-- ENT1 to ENT6. -/
def entIdx : IndexReg → Addr → Instr
  | .i1, m => .ent1 m
  | .i2, m => .ent2 m
  | .i3, m => .ent3 m
  | .i4, m => .ent4 m
  | .i5, m => .ent5 m
  | .i6, m => .ent6 m

/-- ENN1 to ENN6. -/
def ennIdx : IndexReg → Addr → Instr
  | .i1, m => .enn1 m
  | .i2, m => .enn2 m
  | .i3, m => .enn3 m
  | .i4, m => .enn4 m
  | .i5, m => .enn5 m
  | .i6, m => .enn6 m

/-- JAN to JANP and JXN to JXNP. -/
def jumpOf : FullReg → SignTest → Addr → Instr
  | .a, .n, m => .jan m
  | .a, .z, m => .jaz m
  | .a, .p, m => .jap m
  | .a, .nn, m => .jann m
  | .a, .nz, m => .janz m
  | .a, .np, m => .janp m
  | .x, .n, m => .jxn m
  | .x, .z, m => .jxz m
  | .x, .p, m => .jxp m
  | .x, .nn, m => .jxnn m
  | .x, .nz, m => .jxnz m
  | .x, .np, m => .jxnp m

/-- J1N to J6NP. -/
def jumpIdx : IndexReg → SignTest → Addr → Instr
  | .i1, .n, m => .j1n m
  | .i1, .z, m => .j1z m
  | .i1, .p, m => .j1p m
  | .i1, .nn, m => .j1nn m
  | .i1, .nz, m => .j1nz m
  | .i1, .np, m => .j1np m
  | .i2, .n, m => .j2n m
  | .i2, .z, m => .j2z m
  | .i2, .p, m => .j2p m
  | .i2, .nn, m => .j2nn m
  | .i2, .nz, m => .j2nz m
  | .i2, .np, m => .j2np m
  | .i3, .n, m => .j3n m
  | .i3, .z, m => .j3z m
  | .i3, .p, m => .j3p m
  | .i3, .nn, m => .j3nn m
  | .i3, .nz, m => .j3nz m
  | .i3, .np, m => .j3np m
  | .i4, .n, m => .j4n m
  | .i4, .z, m => .j4z m
  | .i4, .p, m => .j4p m
  | .i4, .nn, m => .j4nn m
  | .i4, .nz, m => .j4nz m
  | .i4, .np, m => .j4np m
  | .i5, .n, m => .j5n m
  | .i5, .z, m => .j5z m
  | .i5, .p, m => .j5p m
  | .i5, .nn, m => .j5nn m
  | .i5, .nz, m => .j5nz m
  | .i5, .np, m => .j5np m
  | .i6, .n, m => .j6n m
  | .i6, .z, m => .j6z m
  | .i6, .p, m => .j6p m
  | .i6, .nn, m => .j6nn m
  | .i6, .nz, m => .j6nz m
  | .i6, .np, m => .j6np m

/-- The address part of an instruction. -/
def addrOf : Instr → Addr
  | .nop m _ | .add m _ | .sub m _ | .mul m _ | .div m _ | .move m _ | .lda m _ | .ld1 m _ | .ld2 m _
  | .ld3 m _ | .ld4 m _ | .ld5 m _ | .ld6 m _ | .ldx m _ | .ldan m _ | .ld1n m _ | .ld2n m _ | .ld3n m _
  | .ld4n m _ | .ld5n m _ | .ld6n m _ | .ldxn m _ | .sta m _ | .st1 m _ | .st2 m _ | .st3 m _ | .st4 m _
  | .st5 m _ | .st6 m _ | .stx m _ | .stz m _ | .jbus m _ | .ioc m _ | .inp m _ | .out m _ | .jred m _
  | .cmpa m _ | .cmp1 m _ | .cmp2 m _ | .cmp3 m _ | .cmp4 m _ | .cmp5 m _ | .cmp6 m _ | .cmpx m _ => m
  | .num m | .char m | .hlt m | .sla m | .sra m | .slax m | .srax m | .slc m | .src m | .stj m | .jmp m
  | .jsj m | .jov m | .jnov m | .jl m | .je m | .jg m | .jge m | .jne m | .jle m | .jan m | .jaz m | .jap m
  | .jann m | .janz m | .janp m | .j1n m | .j1z m | .j1p m | .j1nn m | .j1nz m | .j1np m | .j2n m | .j2z m
  | .j2p m | .j2nn m | .j2nz m | .j2np m | .j3n m | .j3z m | .j3p m | .j3nn m | .j3nz m | .j3np m | .j4n m
  | .j4z m | .j4p m | .j4nn m | .j4nz m | .j4np m | .j5n m | .j5z m | .j5p m | .j5nn m | .j5nz m | .j5np m
  | .j6n m | .j6z m | .j6p m | .j6nn m | .j6nz m | .j6np m | .jxn m | .jxz m | .jxp m | .jxnn m | .jxnz m
  | .jxnp m | .inca m | .deca m | .enta m | .enna m | .inc1 m | .dec1 m | .ent1 m | .enn1 m | .inc2 m | .dec2 m
  | .ent2 m | .enn2 m | .inc3 m | .dec3 m | .ent3 m | .enn3 m | .inc4 m | .dec4 m | .ent4 m | .enn4 m | .inc5 m
  | .dec5 m | .ent5 m | .enn5 m | .inc6 m | .dec6 m | .ent6 m | .enn6 m | .incx m | .decx m | .entx m | .ennx m => m

/-- CMPA to CMPX, the instructions that write CI (R51). -/
def isCompare : Instr → Bool
  | .cmpa _ _ | .cmp1 _ _ | .cmp2 _ _ | .cmp3 _ _ | .cmp4 _ _ | .cmp5 _ _ | .cmp6 _ _ | .cmpx _ _ => true
  | _ => false

/-- The jumps, opcodes 39 to 47. -/
def isJump : Instr → Bool
  | .jmp _ | .jsj _ | .jov _ | .jnov _ | .jl _ | .je _ | .jg _ | .jge _ | .jne _ | .jle _ | .jan _ | .jaz _
  | .jap _ | .jann _ | .janz _ | .janp _ | .j1n _ | .j1z _ | .j1p _ | .j1nn _ | .j1nz _ | .j1np _ | .j2n _
  | .j2z _ | .j2p _ | .j2nn _ | .j2nz _ | .j2np _ | .j3n _ | .j3z _ | .j3p _ | .j3nn _ | .j3nz _ | .j3np _
  | .j4n _ | .j4z _ | .j4p _ | .j4nn _ | .j4nz _ | .j4np _ | .j5n _ | .j5z _ | .j5p _ | .j5nn _ | .j5nz _
  | .j5np _ | .j6n _ | .j6z _ | .j6p _ | .j6nn _ | .j6nz _ | .j6np _ | .jxn _ | .jxz _ | .jxp _ | .jxnn _
  | .jxnz _ | .jxnp _ => true
  | _ => false

/-- The instructions that set OV (R50): ADD, SUB, DIV, INC and DEC. -/
def mayOverflow : Instr → Bool
  | .add _ _ | .sub _ _ | .div _ _ | .inca _ | .deca _ | .inc1 _ | .dec1 _ | .inc2 _ | .dec2 _ | .inc3 _
  | .dec3 _ | .inc4 _ | .dec4 _ | .inc5 _ | .dec5 _ | .inc6 _ | .dec6 _ | .incx _ | .decx _ => true
  | _ => false

/-- The instructions that write memory (R86): the stores and MOVE. -/
def writesMemory : Instr → Bool
  | .move _ _ | .sta _ _ | .st1 _ _ | .st2 _ _ | .st3 _ _ | .st4 _ _ | .st5 _ _ | .st6 _ _ | .stx _ _ | .stj _
  | .stz _ _ => true
  | _ => false

/-- The instructions that read CI (R51): JL, JE, JG, JGE, JNE and JLE. -/
def readsCi : Instr → Bool
  | .jl _ | .je _ | .jg _ | .jge _ | .jne _ | .jle _ => true
  | _ => false

/-- The instructions that write A (R48). -/
def writesA : Instr → Bool
  | .add _ _ | .sub _ _ | .mul _ _ | .div _ _ | .sla _ | .sra _ | .slax _ | .srax _ | .slc _ | .src _
  | .lda _ _ | .ldan _ _ | .inca _ | .deca _ | .enta _ | .enna _ => true
  | _ => false

/-- The instructions that read A (R48). -/
def readsA : Instr → Bool
  | .add _ _ | .sub _ _ | .mul _ _ | .div _ _ | .sla _ | .sra _ | .slax _ | .srax _ | .slc _ | .src _
  | .sta _ _ | .jan _ | .jaz _ | .jap _ | .jann _ | .janz _ | .janp _ | .inca _ | .deca _ | .cmpa _ _ => true
  | _ => false

/-- The instructions that write X (R48). -/
def writesX : Instr → Bool
  | .mul _ _ | .div _ _ | .slax _ | .srax _ | .slc _ | .src _ | .ldx _ _ | .ldxn _ _ | .incx _ | .decx _
  | .entx _ | .ennx _ => true
  | _ => false

/-- The instructions that read X (R48). -/
def readsX : Instr → Bool
  | .div _ _ | .slax _ | .srax _ | .slc _ | .src _ | .stx _ _ | .jxn _ | .jxz _ | .jxp _ | .jxnn _ | .jxnz _
  | .jxnp _ | .incx _ | .decx _ | .cmpx _ _ => true
  | _ => false

/-- The instructions that write an index register (R48): LDi, LDiN, INCi, DECi, ENTi, ENNi, and MOVE for I1. -/
def writesIdx : IndexReg → Instr → Bool
  | .i1, .move _ _ | .i1, .ld1 _ _ | .i1, .ld1n _ _ | .i1, .inc1 _ | .i1, .dec1 _ | .i1, .ent1 _ | .i1, .enn1 _ => true
  | .i2, .ld2 _ _ | .i2, .ld2n _ _ | .i2, .inc2 _ | .i2, .dec2 _ | .i2, .ent2 _ | .i2, .enn2 _ => true
  | .i3, .ld3 _ _ | .i3, .ld3n _ _ | .i3, .inc3 _ | .i3, .dec3 _ | .i3, .ent3 _ | .i3, .enn3 _ => true
  | .i4, .ld4 _ _ | .i4, .ld4n _ _ | .i4, .inc4 _ | .i4, .dec4 _ | .i4, .ent4 _ | .i4, .enn4 _ => true
  | .i5, .ld5 _ _ | .i5, .ld5n _ _ | .i5, .inc5 _ | .i5, .dec5 _ | .i5, .ent5 _ | .i5, .enn5 _ => true
  | .i6, .ld6 _ _ | .i6, .ld6n _ _ | .i6, .inc6 _ | .i6, .dec6 _ | .i6, .ent6 _ | .i6, .enn6 _ => true
  | _, _ => false

/-- The instructions that read an index register otherwise than as an index (R48): STi, CMPi, the Ii jumps, INCi, DECi,
and MOVE for I1. -/
def readsIdxAsOperand : IndexReg → Instr → Bool
  | .i1, .move _ _ | .i1, .st1 _ _ | .i1, .j1n _ | .i1, .j1z _ | .i1, .j1p _ | .i1, .j1nn _ | .i1, .j1nz _
  | .i1, .j1np _ | .i1, .inc1 _ | .i1, .dec1 _ | .i1, .cmp1 _ _ => true
  | .i2, .st2 _ _ | .i2, .j2n _ | .i2, .j2z _ | .i2, .j2p _ | .i2, .j2nn _ | .i2, .j2nz _ | .i2, .j2np _
  | .i2, .inc2 _ | .i2, .dec2 _ | .i2, .cmp2 _ _ => true
  | .i3, .st3 _ _ | .i3, .j3n _ | .i3, .j3z _ | .i3, .j3p _ | .i3, .j3nn _ | .i3, .j3nz _ | .i3, .j3np _
  | .i3, .inc3 _ | .i3, .dec3 _ | .i3, .cmp3 _ _ => true
  | .i4, .st4 _ _ | .i4, .j4n _ | .i4, .j4z _ | .i4, .j4p _ | .i4, .j4nn _ | .i4, .j4nz _ | .i4, .j4np _
  | .i4, .inc4 _ | .i4, .dec4 _ | .i4, .cmp4 _ _ => true
  | .i5, .st5 _ _ | .i5, .j5n _ | .i5, .j5z _ | .i5, .j5p _ | .i5, .j5nn _ | .i5, .j5nz _ | .i5, .j5np _
  | .i5, .inc5 _ | .i5, .dec5 _ | .i5, .cmp5 _ _ => true
  | .i6, .st6 _ _ | .i6, .j6n _ | .i6, .j6z _ | .i6, .j6p _ | .i6, .j6nn _ | .i6, .j6nz _ | .i6, .j6np _
  | .i6, .inc6 _ | .i6, .dec6 _ | .i6, .cmp6 _ _ => true
  | _, _ => false

/-- The instructions that may write a register, by the table of R48. -/
def writesReg : Reg → Instr → Bool
  | .full .a, i => writesA i
  | .full .x, i => writesX i
  | .index k, i => writesIdx k i
  | .jump, .jsj _ => false
  | .jump, i => isJump i

/-- The instructions that read a register, by the table of R48. An index register is read by every instruction whose
index field names it. -/
def readsReg : Reg → Instr → Bool
  | .full .a, i => readsA i
  | .full .x, i => readsX i
  | .index k, i => readsIdxAsOperand k i || (addrOf i).index == some k
  | .jump, .stj _ => true
  | .jump, _ => false

/-! ## Terms of the results -/

/-- (L:R) is legal (R35): L <= R, both at most 5 by type. -/
def legalField (f : FieldSpec) : Prop := f.l.val ≤ f.r.val

/-- The effective address of `m` is the memory address `a` (R112). -/
def addresses (m : Addr) (s : State) (a : Nat) : Prop := (ea m s).val = a ∧ a < 4000

/-- The effective address of `m` lies outside [0, 4000) (R82). -/
def outside (m : Addr) (s : State) : Prop := (ea m s).val < 0 ∨ 4000 ≤ (ea m s).val

/-- The magnitude of a field view (R36): (mag(w) div 64^(5-R)) mod 64^n, of n = R - max(L,1) + 1 bytes. -/
def viewMag (w : Word) (f : FieldSpec) : Nat :=
  w.mag / 64 ^ (5 - f.r.val) % 64 ^ (f.r.val + 1 - max f.l.val 1)

/-- The sign of a field view (R36, R37): the word's when L = 0, else +. -/
def viewSign (w : Word) (f : FieldSpec) : Sign := if f.l.val = 0 then w.sign else .plus

/-- The integer of a sign and a magnitude (R11). -/
def signed (s : Sign) (n : Nat) : Int := if s = .minus then -(n : Int) else n

/-- The value of a field view (R11, R36). -/
def viewVal (w : Word) (f : FieldSpec) : Int := signed (viewSign w f) (viewMag w f)

/-- The widened half register ±[0,0,0,h1,h2] (R40). -/
def widened (h : Half) : Word := ⟨h.sign, 0, 0, 0, h.h1, h.h2⟩

/-- The sign of a nonzero integer, and `z` for zero (R12). -/
def isSignOf (t : Int) (z : Sign) (s : Sign) : Prop :=
  (t < 0 → s = .minus) ∧ (0 < t → s = .plus) ∧ (t = 0 → s = z)

/-- The signed-add law (R264) for a true sum `t` in a register of `w` magnitude bits and old sign `z`: the new sign and
magnitude, and OV before and after. -/
def sumRule (t : Int) (w : Nat) (z : Sign) (sign : Sign) (mag : Nat) (ov ov' : Bool) : Prop :=
  isSignOf t z sign ∧
  (t.natAbs < 2 ^ w → mag = t.natAbs ∧ ov' = ov) ∧
  (2 ^ w ≤ t.natAbs → mag = t.natAbs % 2 ^ w ∧ ov' = true)

/-- A word with field (L:R) of `old` replaced from the low-order bytes of `src` (R38): byte R takes byte 5 of `src`, byte
R-1 its byte 4, and so on; the sign is taken when L = 0; the rest stays. -/
def fieldReplaced (old src : Word) (f : FieldSpec) (new : Word) : Prop :=
  new.sign = (if f.l.val = 0 then src.sign else old.sign) ∧
  ∀ k, 1 ≤ k → k ≤ 5 →
    new.byte k = if max f.l.val 1 ≤ k ∧ k ≤ f.r.val then src.byte (5 - (f.r.val - k)) else old.byte k

/-- Byte k of the ten bytes of A and X, k in 1..10 (R440). -/
def axByte (s : State) (k : Nat) : Byte := if k ≤ 5 then s.a.byte k else s.x.byte (k - 5)

/-- The conditions of opcodes 40..47 (R362). -/
def condition : SignTest → Int → Prop
  | .n, v => v < 0
  | .z, v => v = 0
  | .p, v => 0 < v
  | .nn, v => 0 ≤ v
  | .nz, v => v ≠ 0
  | .np, v => v ≤ 0

/-- A jump not taken (R360): only pc <- next. -/
def notTaken (s : State) (r : Result) : Prop := r = .next { s with pc := s.pc + 1 }

/-- A jump taken that writes J (R360): pc <- ea, J <- (+, next), nothing else. -/
def taken (m : Addr) (s : State) (r : Result) : Prop :=
  ∃ t, r = .next t ∧ (t.pc.toNat : Int) = (ea m s).val ∧ t.j.sign = .plus ∧ t.j.mag = s.pc.toNat + 1 ∧
    t = { s with pc := t.pc, j := t.j }

/-- A conditional jump that writes J when taken (R360): its condition decides; a taken jump checks its target. -/
def jumpsWhen (c : Prop) (m : Addr) (s : State) (r : Result) : Prop :=
  (¬ c → notTaken s r) ∧
  (c → outside m s → r = .fault (.addressOutOfRange (ea m s).val)) ∧
  (c → ¬ outside m s → taken m s r)

/-- F is legal for opcode C (R106), NUM and CHAR among the legal selectors of opcode 5. -/
def legalF (c f : Nat) : Prop :=
  if c = 0 ∨ c = 7 ∨ (34 ≤ c ∧ c ≤ 38) then True
  else if c = 5 then f ≤ 2
  else if c = 6 then f ≤ 5
  else if c = 32 then f = 2
  else if c = 39 then f ≤ 9
  else if 40 ≤ c ∧ c ≤ 47 then f ≤ 5
  else if 48 ≤ c ∧ c ≤ 55 then f ≤ 3
  else f / 8 ≤ f % 8 ∧ f % 8 ≤ 5

/-- An instruction's word has opcode C and F byte F (R101). -/
def codedAs (i : Instr) (c f : Nat) : Prop := (encode i).b5.toNat = c ∧ (encode i).b4.toNat = f

/-- The instructions of the list have the opcodes c, c + 1, .. in order, all with F byte f (R107). -/
def opcodesFrom (c f : Nat) (l : List Instr) : Prop := ∀ (k : Nat) (i : Instr), l[k]? = some i → codedAs i (c + k) f

/-- The instructions of the list have opcode c and the F bytes 0, 1, .. in order (R106, R107). -/
def selectorsOf (c : Nat) (l : List Instr) : Prop := ∀ (k : Nat) (i : Instr), l[k]? = some i → codedAs i c k

/-- The address part, the field and the source word of a store (R220 to R230), the source taken from `s`. -/
def storeParts (s : State) : Instr → Option (Addr × FieldSpec × Word)
  | .sta m f => some (m, f, s.a)
  | .st1 m f => some (m, f, widened s.i1)
  | .st2 m f => some (m, f, widened s.i2)
  | .st3 m f => some (m, f, widened s.i3)
  | .st4 m f => some (m, f, widened s.i4)
  | .st5 m f => some (m, f, widened s.i5)
  | .st6 m f => some (m, f, widened s.i6)
  | .stx m f => some (m, f, s.x)
  | .stj m => some (m, ⟨0, 2⟩, widened s.j)
  | .stz m f => some (m, f, ⟨.plus, 0, 0, 0, 0, 0⟩)
  | _ => none

/-- A running machine with this memory and its PC at `c` executes what the word at `c` decodes to (R92). -/
def fetchedFrom (mem : Memory) (c : Nat) : Prop :=
  ∀ (u : State) (i : Instr), u.mem = mem → u.halt = false → u.pc.toNat = c → decode (mem.read c) = .ok i →
    step u = exec i u

/-- x[r] <- the register value of the word `v` (a half register takes bytes 4 and 5, and J the sign +). -/
def put (s : State) : Reg → Word → State
  | .full r, v => s.setFull r v
  | .index i, v => s.setIndex i v.half
  | .jump, v => s.setJ v.half

/-- Two outcomes, of states that differ in register `r` at most, that agree: the same fault, or next states that differ
in `r` at most, where each holds in `r` the same value or the value it held before. -/
def agreeBut (r : Reg) (s s' : State) : Result → Result → Prop
  | .next t, .next t' =>
    put t' r (t.readReg r) = t ∧
      (t.readReg r = t'.readReg r ∨ (t.readReg r = s.readReg r ∧ t'.readReg r = s'.readReg r))
  | .fault f, .fault g => f = g
  | .refused a, .refused b => a = b
  | _, _ => False

/-- Two outcomes that agree: the same fault or refusal, or next states related by `same`. -/
def agreeUpTo (same : State → State → Prop) : Result → Result → Prop
  | .next t, .next t' => same t t'
  | .fault f, .fault g => f = g
  | .refused a, .refused b => a = b
  | _, _ => False

end Sys2Proof.Spec


section

open Sys2Proof Sys2Proof.Machine Sys2Proof.Spec

/-- O1. negate flips the sign bit only, and twice is the identity.
R34. -/
def Obligations.NegateFlipsTheSignOnly : Prop :=
  ∀ w : Word, (negate w).sign ≠ w.sign ∧
    (negate w).b1 = w.b1 ∧ (negate w).b2 = w.b2 ∧ (negate w).b3 = w.b3 ∧ (negate w).b4 = w.b4 ∧ (negate w).b5 = w.b5 ∧
    (negate w).mag = w.mag ∧ negate (negate w) = w ∧
    negate ⟨.plus, 0, 0, 0, 0, 0⟩ = ⟨.minus, 0, 0, 0, 0, 0⟩ ∧ negate ⟨.minus, 0, 0, 0, 0, 0⟩ = ⟨.plus, 0, 0, 0, 0, 0⟩

/-- O2. decompose reads back what compose packed; sign and magnitude read the sign bit and the magnitude.
R33. -/
def Obligations.DecomposeReadsBackCompose : Prop :=
  (∀ (b1 b2 b3 b4 b5 : Nat) (s : Sign), b1 ≤ 63 → b2 ≤ 63 → b3 ≤ 63 → b4 ≤ 63 → b5 ≤ 63 →
      decompose (compose b1 b2 b3 b4 b5 s) = ((b1, b2, b3, b4, b5), s)) ∧
    ∀ w : Word, decompose w = ((w.b1.toNat, w.b2.toNat, w.b3.toNat, w.b4.toNat, w.b5.toNat), w.sign) ∧
      (w.sign = .plus → w.signum = 1) ∧ (w.sign = .minus → w.signum = -1) ∧
      w.mag = w.b1.toNat * 64 ^ 4 + w.b2.toNat * 64 ^ 3 + w.b3.toNat * 64 ^ 2 + w.b4.toNat * 64 + w.b5.toNat ∧
      w.mag < 2 ^ 30

/-- O3. compose replaces an out-of-range byte by 0; the 31-bit encoding lays out sign, byte 1 .. byte 5 and loses nothing (decisions D1, D33).
R31 and R32; the layout and the sign argument as a bit are the spec's own decisions D1 and D33. -/
def Obligations.ComposeAndEncodingAreExact : Prop :=
  (∀ (b1 b2 b3 b4 b5 : Int) (s : Sign),
      let kept : Int → Byte → Prop := fun b c =>
        (0 ≤ b → b ≤ 63 → (c.toNat : Int) = b) ∧ (b < 0 ∨ 63 < b → c = 0)
      let w := compose b1 b2 b3 b4 b5 s
      w.sign = s ∧ kept b1 w.b1 ∧ kept b2 w.b2 ∧ kept b3 w.b3 ∧ kept b4 w.b4 ∧ kept b5 w.b5) ∧
    (∀ w : Word, w.enc < 2 ^ 31 ∧ (w.enc / 2 ^ 30 = 1 ↔ w.sign = .minus) ∧
      w.enc / 2 ^ 24 % 64 = w.b1.toNat ∧ w.enc / 2 ^ 18 % 64 = w.b2.toNat ∧ w.enc / 2 ^ 12 % 64 = w.b3.toNat ∧
      w.enc / 2 ^ 6 % 64 = w.b4.toNat ∧ w.enc % 64 = w.b5.toNat ∧ Word.ofEnc w.enc = w) ∧
    ∀ n : Nat, n < 2 ^ 31 → (Word.ofEnc n).enc = n

/-- O4. A field view holds bytes max(L,1)..R right-justified, zeros above, and the word's sign exactly when L = 0.
R36 and R37. -/
def Obligations.FieldViewTakesItsBytes : Prop :=
  ∀ (w : Word) (f : FieldSpec), legalField f →
    (∀ k, 1 ≤ k → k ≤ 5 →
      (fieldView w f).byte k =
        if k + (f.r.val + 1 - max f.l.val 1) < 6 then 0 else w.byte (k - (5 - f.r.val))) ∧
    (fieldView w f).mag = viewMag w f ∧
    (f.l.val = 0 → (fieldView w f).sign = w.sign) ∧ (0 < f.l.val → (fieldView w f).sign = .plus)

/-- O5. applyField writes the low-order bytes of v into bytes max(L,1)..R, the sign when L = 0, and nothing else.
R38. -/
def Obligations.FieldWriteReplacesItsBytes : Prop :=
  (∀ (dst v : Word) (f : FieldSpec), legalField f → fieldReplaced dst v f (applyField dst f v)) ∧
    applyField ⟨.minus, 1, 2, 3, 4, 5⟩ ⟨2, 3⟩ ⟨.plus, 6, 7, 8, 9, 0⟩ = ⟨.minus, 1, 9, 0, 4, 5⟩

/-- O6. Writing a field's own current value back changes nothing; a half register's missing bytes count as zero.
R39. -/
def Obligations.FieldSelfCopyChangesNothing : Prop :=
  (∀ (w : Word) (f : FieldSpec), legalField f → applyField w f (fieldView w f) = w) ∧
    ∀ (h : Half) (dst : Word) (f : FieldSpec), legalField f →
      fieldReplaced dst ⟨h.sign, 0, 0, 0, h.h1, h.h2⟩ f (applyField dst f (pad h))

/-- O7. Every write to J forces the sign +, keeps the two bytes and touches nothing else; a step never leaves J negative.
R47. -/
def Obligations.JumpRegisterWriteForcesPlus : Prop :=
  (∀ (s : State) (h : Half), s.setJ h = { s with j := ⟨.plus, h.h1, h.h2⟩ }) ∧
    (∀ start : BitVec 12, (State.resetAt start).j.sign = .plus) ∧
    ∀ s t : State, s.j.sign = .plus → step s = .next t → t.j.sign = .plus

/-- O8. Decoding the word of any well-formed instruction gives the instruction back.
No bit of an operand is dropped by the encoding of R101, R106 and R107. -/
def Obligations.EncodeThenDecodeIsIdentity : Prop :=
  ∀ i : Instr, i.WellFormed → decode (encode i) = .ok i

/-- O9. Every word the decoder accepts is the word of the instruction it reads, and that instruction is well formed.
The other direction of the round trip: the format of R100 and R101 has no don't-care bit. -/
def Obligations.DecodeThenEncodeIsIdentity : Prop :=
  ∀ (w : Word) (i : Instr), decode w = .ok i → i.WellFormed ∧ encode i = w

/-- O10. The index byte selects none, I1..I6, or is rejected as InvalidIndex whatever the opcode.
R104. -/
def Obligations.IndexByteAboveSixIsRejected : Prop :=
  (∀ w : Word, 6 < w.b3.toNat → decode w = .reject (.invalidIndex w.b3.toNat)) ∧
    (∀ s : State, s.halt = false → s.pc.toNat < 4000 → 6 < (s.mem.read s.pc.toNat).b3.toNat →
      step s = .fault (.invalidIndex (s.mem.read s.pc.toNat).b3.toNat)) ∧
    ∀ (w : Word) (i : Instr), decode w = .ok i →
      (w.b3 = 0 ∧ (addrOf i).index = none) ∨ (w.b3 = 1 ∧ (addrOf i).index = some .i1) ∨
      (w.b3 = 2 ∧ (addrOf i).index = some .i2) ∨ (w.b3 = 3 ∧ (addrOf i).index = some .i3) ∨
      (w.b3 = 4 ∧ (addrOf i).index = some .i4) ∨ (w.b3 = 5 ∧ (addrOf i).index = some .i5) ∨
      (w.b3 = 6 ∧ (addrOf i).index = some .i6)

/-- O11. A fetched word is an illegal instruction exactly for a bad index, a bad F, or NUM/CHAR, in that order (decisions D6-D9, D21, D24).
R108, with the classes of R106 and the order of R511: the legal selectors and the order are the spec's own decisions D6 to D9, D21 and D24. -/
def Obligations.IllegalWordsFaultInOrder : Prop :=
  ∀ s : State, s.halt = false → s.pc.toNat < 4000 →
    let w := s.mem.read s.pc.toNat
    let bad := 6 < w.b3.toNat
    let scope := w.b5.toNat = 5 ∧ w.b4.toNat ≤ 1
    (bad → step s = .fault (.invalidIndex w.b3.toNat)) ∧
    (¬ bad → ¬ legalF w.b5.toNat w.b4.toNat → step s = .fault (.invalidFieldSpec w.b4.toNat)) ∧
    (¬ bad → scope → step s = .fault (.invalidOpcode (64 * w.b5.toNat + w.b4.toNat))) ∧
    (¬ bad → legalF w.b5.toNat w.b4.toNat → ¬ scope →
      ∃ i : Instr, i.WellFormed ∧ encode i = w ∧ (∀ m : Addr, i ≠ .num m ∧ i ≠ .char m) ∧ step s = exec i s)

/-- O12. Words written out from the encoding decode to the instructions they stand for (opcodes and selectors: decisions D5 to D10).
Sanity: the byte positions of R101 and the opcode map of R107, on written-out words. The register order in a family, the
selectors and the opcodes 0, 5 and 34 to 38 are the spec's own decisions D5 to D10 (log entry 10, PRESUMED). -/
def Obligations.WrittenOutWordsDecode : Prop :=
  decode ⟨.minus, 63, 63, 6, 63, 0⟩ = .ok (.nop ⟨.minus, 4095, some .i6⟩ 63) ∧
    decode ⟨.plus, 31, 16, 1, 5, 8⟩ = .ok (.lda ⟨.plus, 2000, some .i1⟩ ⟨0, 5⟩) ∧
    decode ⟨.plus, 31, 16, 0, 5, 16⟩ = .ok (.ldan ⟨.plus, 2000, none⟩ ⟨0, 5⟩) ∧
    decode ⟨.plus, 31, 16, 2, 37, 17⟩ = .ok (.ld1n ⟨.plus, 2000, some .i2⟩ ⟨4, 5⟩) ∧
    decode ⟨.minus, 0, 5, 0, 11, 25⟩ = .ok (.st1 ⟨.minus, 5, none⟩ ⟨1, 3⟩) ∧
    decode ⟨.plus, 31, 16, 0, 2, 32⟩ = .ok (.stj ⟨.plus, 2000, none⟩) ∧
    decode ⟨.plus, 31, 16, 0, 11, 33⟩ = .ok (.stz ⟨.plus, 2000, none⟩ ⟨1, 3⟩) ∧
    decode ⟨.plus, 31, 16, 0, 5, 1⟩ = .ok (.add ⟨.plus, 2000, none⟩ ⟨0, 5⟩) ∧
    decode ⟨.minus, 0, 0, 0, 2, 48⟩ = .ok (.enta ⟨.minus, 0, none⟩) ∧
    decode ⟨.plus, 0, 5, 6, 1, 54⟩ = .ok (.dec6 ⟨.plus, 5, some .i6⟩) ∧
    decode ⟨.plus, 31, 16, 0, 36, 63⟩ = .ok (.cmpx ⟨.plus, 2000, none⟩ ⟨4, 4⟩) ∧
    decode ⟨.plus, 31, 16, 0, 9, 39⟩ = .ok (.jle ⟨.plus, 2000, none⟩) ∧
    decode ⟨.plus, 31, 16, 0, 4, 47⟩ = .ok (.jxnz ⟨.plus, 2000, none⟩) ∧
    decode ⟨.plus, 0, 3, 0, 5, 6⟩ = .ok (.src ⟨.plus, 3, none⟩) ∧
    decode ⟨.plus, 15, 40, 0, 63, 7⟩ = .ok (.move ⟨.plus, 1000, none⟩ 63) ∧
    decode ⟨.plus, 0, 0, 0, 1, 5⟩ = .ok (.char ⟨.plus, 0, none⟩) ∧
    decode ⟨.plus, 0, 0, 0, 2, 5⟩ = .ok (.hlt ⟨.plus, 0, none⟩) ∧
    decode ⟨.plus, 15, 40, 0, 18, 37⟩ = .ok (.out ⟨.plus, 1000, none⟩ 18)

/-- O13. A step of the running machine executes the instruction decoded at PC (the machine fetches from its own PC: decision D27).
R500 and R114; the fetch from the core's own PC is the spec's own decision D27. -/
def Obligations.StepRunsTheDecodedInstruction : Prop :=
  (∀ (s : State) (i : Instr), s.halt = false → s.pc.toNat < 4000 → decode (s.mem.read s.pc.toNat) = .ok i →
      step s = exec i s) ∧
    ∀ (s : State) (i : Instr), s.halt = false → s.pc.toNat < 4000 → i.WellFormed →
      s.mem.read s.pc.toNat = encode i → step s = exec i s

/-- O14. A halted machine stays as it is and returns HALTED; else a PC outside memory faults before anything is decoded (D24, D25, D28).
R515, R512 and the first two places of R511: the spec's own decisions D25, D28 and D24. -/
def Obligations.HaltedOrOutsideMemoryNothingIsFetched : Prop :=
  (∀ s : State, s.halt = true → step s = .next s ∧ statusOf (step s) = .status .halted 0) ∧
    ∀ s : State, s.halt = false → 4000 ≤ s.pc.toNat →
      step s = .fault (.addressOutOfRange s.pc.toNat) ∧
      ∀ stepped : Bool, (Session.stepOp ⟨s, stepped⟩).2.core = s

/-- O15. No instruction and no step is refused: each gives a next state or a fault of the spec (no device: D10; L > R: the model's choice).
R108 and R500: every word is a legal instruction or raises a named fault. That no I/O instruction is refused rests on the
empty device registry (decision D10; log entry 7, DEDUCED). That a term no word decodes to (a field with L > R) ends in a
fault is the model's own choice (log entry 6, DESIGN CHOICE). -/
def Obligations.StepIsNeverRefused : Prop :=
  ∀ s : State, (∀ i : Instr, (∃ t, exec i s = .next t) ∨ ∃ f, exec i s = .fault f) ∧
    ((∃ t, step s = .next t) ∨ ∃ f, step s = .fault f)

/-- O16. The effective address is the signed address field plus the signed value of the selected index register (sign of zero: decision D13).
R110; that a zero effective address has the sign of the address field (R111) is the spec's own decision D13 (log entry 10,
PRESUMED). -/
def Obligations.EffectiveAddressRule : Prop :=
  ∀ (m : Addr) (s : State),
    (m.index = none → (ea m s).val = signed m.sign m.mag.toNat) ∧
    (∀ i : IndexReg, m.index = some i →
      (ea m s).val = signed m.sign m.mag.toNat +
        signed (s.index i).sign ((s.index i).h1.toNat * 64 + (s.index i).h2.toNat)) ∧
    -8190 ≤ (ea m s).val ∧ (ea m s).val ≤ 8190 ∧
    (ea m s).mag = (ea m s).val.natAbs ∧ isSignOf (ea m s).val m.sign (ea m s).sign

/-- O17. LDA, LDX, LDAN and LDXN load the field view of the cell, for LDAN and LDXN of the cell with its sign flipped, and change nothing else (opcodes: decision D5).
R202, R209, R211 and R218 (family rules R200 and R210); the order of the registers in the opcodes is the spec's own
decision D5 (log entry 10, PRESUMED). -/
def Obligations.LoadFullRegister : Prop :=
  ∀ (r : FullReg) (m : Addr) (f : FieldSpec) (s : State), legalField f →
    codedAs (loadOf r m f) (match r with | .a => 8 | .x => 15) (8 * f.l.val + f.r.val) ∧
    codedAs (loadNegOf r m f) (match r with | .a => 16 | .x => 23) (8 * f.l.val + f.r.val) ∧
    (∀ a : Nat, addresses m s a →
      (∃ t, exec (loadOf r m f) s = .next t ∧
        (t.full r).sign = viewSign (s.mem.read a) f ∧ (t.full r).mag = viewMag (s.mem.read a) f ∧
        t = { s.setFull r (t.full r) with pc := s.pc + 1 }) ∧
      ∃ t, exec (loadNegOf r m f) s = .next t ∧
        (f.l.val = 0 → (t.full r).sign ≠ (s.mem.read a).sign) ∧ (0 < f.l.val → (t.full r).sign = .plus) ∧
        (t.full r).mag = viewMag (s.mem.read a) f ∧ t = { s.setFull r (t.full r) with pc := s.pc + 1 }) ∧
    (outside m s → exec (loadOf r m f) s = .fault (.addressOutOfRange (ea m s).val) ∧
      exec (loadNegOf r m f) s = .fault (.addressOutOfRange (ea m s).val))

/-- O18. LDi and LDiN load a field view that fits, and fault on one that does not (the fault is decision D18).
R203 to R208 and R212 to R217; the fault on a value of 4096 or more (R201) is the spec's own decision D18. -/
def Obligations.LoadIndexRegister : Prop :=
  ∀ (i : IndexReg) (m : Addr) (f : FieldSpec) (s : State), legalField f →
    (∀ (a : Nat), addresses m s a →
      (viewMag (s.mem.read a) f < 4096 →
        (∃ t, exec (loadIdx i m f) s = .next t ∧ (t.index i).sign = viewSign (s.mem.read a) f ∧
          (t.index i).mag = viewMag (s.mem.read a) f ∧ t = { s.setIndex i (t.index i) with pc := s.pc + 1 }) ∧
        ∃ t, exec (loadNegIdx i m f) s = .next t ∧ (t.index i).sign = viewSign (negate (s.mem.read a)) f ∧
          (t.index i).mag = viewMag (s.mem.read a) f ∧ t = { s.setIndex i (t.index i) with pc := s.pc + 1 }) ∧
      (4096 ≤ viewMag (s.mem.read a) f →
        exec (loadIdx i m f) s = .fault (.indexValueOutOfRange (viewVal (s.mem.read a) f)) ∧
        exec (loadNegIdx i m f) s = .fault (.indexValueOutOfRange (viewVal (negate (s.mem.read a)) f)))) ∧
    (outside m s → exec (loadIdx i m f) s = .fault (.addressOutOfRange (ea m s).val) ∧
      exec (loadNegIdx i m f) s = .fault (.addressOutOfRange (ea m s).val))

/-- O19. STA and STX replace field (L:R) of the addressed word from the register, and no other word, register or flag (opcodes: D5).
R221 and R228 (family rule R220); the order of the registers in the opcodes is the spec's own decision D5 (log entry 10,
PRESUMED). Premise: the memory is in canonical form (part of State.Inv, which every step keeps). -/
def Obligations.StoreFullRegister : Prop :=
  ∀ (r : FullReg) (m : Addr) (f : FieldSpec) (s : State), s.mem.wf = true → legalField f →
    codedAs (storeOf r m f) (match r with | .a => 24 | .x => 31) (8 * f.l.val + f.r.val) ∧
    (∀ a : Nat, addresses m s a → ∃ t, exec (storeOf r m f) s = .next t ∧ fieldReplaced (s.mem.read a) (s.full r) f (t.mem.read a) ∧
      (∀ b : Nat, b ≠ a → t.mem.read b = s.mem.read b) ∧ t = { s with mem := t.mem, pc := s.pc + 1 }) ∧
    (outside m s → exec (storeOf r m f) s = .fault (.addressOutOfRange (ea m s).val))

/-- O20. ST1 to ST6 store the index register widened with zero bytes on the high side (opcodes: decision D5).
R222 to R227 (family rule R220, widening R40); the order of the registers in the opcodes is the spec's own decision D5 (log
entry 10, PRESUMED). Premise: the memory is in canonical form. -/
def Obligations.StoreIndexRegister : Prop :=
  ∀ (i : IndexReg) (m : Addr) (f : FieldSpec) (s : State), s.mem.wf = true → legalField f →
    codedAs (storeIdx i m f)
      (match i with | .i1 => 25 | .i2 => 26 | .i3 => 27 | .i4 => 28 | .i5 => 29 | .i6 => 30) (8 * f.l.val + f.r.val) ∧
    (∀ a : Nat, addresses m s a → ∃ t, exec (storeIdx i m f) s = .next t ∧ fieldReplaced (s.mem.read a) (widened (s.index i)) f (t.mem.read a) ∧
      (∀ b : Nat, b ≠ a → t.mem.read b = s.mem.read b) ∧ t = { s with mem := t.mem, pc := s.pc + 1 }) ∧
    (outside m s → exec (storeIdx i m f) s = .fault (.addressOutOfRange (ea m s).val))

/-- O21. STZ replaces field (L:R) of the addressed word by +0, whatever A holds.
R230. Premise: the memory is in canonical form. -/
def Obligations.StoreZero : Prop :=
  ∀ (m : Addr) (f : FieldSpec) (s : State), s.mem.wf = true → legalField f →
    codedAs (.stz m f) 33 (8 * f.l.val + f.r.val) ∧
    (∀ a : Nat, addresses m s a → ∃ t, exec (.stz m f) s = .next t ∧ fieldReplaced (s.mem.read a) ⟨.plus, 0, 0, 0, 0, 0⟩ f (t.mem.read a) ∧
      (∀ b : Nat, b ≠ a → t.mem.read b = s.mem.read b) ∧ t = { s with mem := t.mem, pc := s.pc + 1 }) ∧
    (outside m s → exec (.stz m f) s = .fault (.addressOutOfRange (ea m s).val))

/-- O22. STJ writes +, j1, j2 into positions 0..2 of the addressed word; its only F is 2 (decision D21).
R229; that every other F is rejected is the spec's own decision D21. Premises: the memory is in canonical form and J's sign is + (both parts of State.Inv). -/
def Obligations.StoreJumpRegister : Prop :=
  (∀ w : Word, w.b5 = 32 → w.b3.toNat ≤ 6 → w.b4 ≠ 2 → decode w = .reject (.invalidFieldSpec w.b4.toNat)) ∧
    ∀ (m : Addr) (s : State), s.mem.wf = true → s.j.sign = .plus →
      codedAs (.stj m) 32 2 ∧
      (∀ a : Nat, addresses m s a → ∃ t, exec (.stj m) s = .next t ∧
        t.mem.read a = ⟨.plus, s.j.h1, s.j.h2, (s.mem.read a).b3, (s.mem.read a).b4, (s.mem.read a).b5⟩ ∧
        (∀ b : Nat, b ≠ a → t.mem.read b = s.mem.read b) ∧ t = { s with mem := t.mem, pc := s.pc + 1 }) ∧
      (outside m s → exec (.stj m) s = .fault (.addressOutOfRange (ea m s).val))

/-- O23. ADD and SUB: the exact sum, OV on overflow with the low 30 bits kept, and a zero sum keeping A's sign (decisions D15, D16).
R260, R261 and R264; which bits an overflow keeps and the sign of a zero sum are the spec's own decisions D15 and D16. -/
def Obligations.AddAndSubtract : Prop :=
  ∀ (m : Addr) (f : FieldSpec) (s : State), legalField f →
    (∀ a : Nat, addresses m s a →
      (∃ t, exec (.add m f) s = .next t ∧
        sumRule (signed s.a.sign s.a.mag + viewVal (s.mem.read a) f) 30 s.a.sign t.a.sign t.a.mag s.ov t.ov ∧
        t = { s with a := t.a, ov := t.ov, pc := s.pc + 1 }) ∧
      ∃ t, exec (.sub m f) s = .next t ∧
        sumRule (signed s.a.sign s.a.mag - viewVal (s.mem.read a) f) 30 s.a.sign t.a.sign t.a.mag s.ov t.ov ∧
        t = { s with a := t.a, ov := t.ov, pc := s.pc + 1 }) ∧
    (outside m s → exec (.add m f) s = .fault (.addressOutOfRange (ea m s).val) ∧
      exec (.sub m f) s = .fault (.addressOutOfRange (ea m s).val))

/-- O24. MUL leaves the 60-bit product in A (high half) and X (low half), both with the XOR of the signs; OV is untouched.
R262. -/
def Obligations.MultiplyGivesTheDoubleProduct : Prop :=
  ∀ (m : Addr) (f : FieldSpec) (s : State), legalField f →
    codedAs (.mul m f) 3 (8 * f.l.val + f.r.val) ∧
    (∀ a : Nat, addresses m s a → ∃ t, exec (.mul m f) s = .next t ∧
      t.a.mag * 2 ^ 30 + t.x.mag = s.a.mag * viewMag (s.mem.read a) f ∧
      (t.a.sign = .minus ↔ s.a.sign ≠ viewSign (s.mem.read a) f) ∧ t.x.sign = t.a.sign ∧
      t = { s with a := t.a, x := t.x, pc := s.pc + 1 }) ∧
    (outside m s → exec (.mul m f) s = .fault (.addressOutOfRange (ea m s).val))

/-- O25. DIV: quotient in A, remainder in X; on a zero divisor or a quotient of 2^30 or more only OV is set (signs: decision D17).
R263; the signs are the spec's own decision D17. -/
def Obligations.DivideGivesQuotientAndRemainder : Prop :=
  ∀ (m : Addr) (f : FieldSpec) (s : State), legalField f →
    (∀ a : Nat, addresses m s a →
      let d := viewMag (s.mem.read a) f
      let n := s.a.mag * 2 ^ 30 + s.x.mag
      (d = 0 ∨ 2 ^ 30 ≤ n / d → exec (.div m f) s = .next { s with ov := true, pc := s.pc + 1 }) ∧
      (d ≠ 0 → n / d < 2 ^ 30 → ∃ t, exec (.div m f) s = .next t ∧
        n = t.a.mag * d + t.x.mag ∧ t.x.mag < d ∧ t.x.sign = s.a.sign ∧
        (t.a.sign = .minus ↔ s.a.sign ≠ viewSign (s.mem.read a) f) ∧
        t = { s with a := t.a, x := t.x, pc := s.pc + 1 })) ∧
    (outside m s → exec (.div m f) s = .fault (.addressOutOfRange (ea m s).val))

/-- O26. Overflow of ADD, SUB, INC and DEC, and a DIV by zero or with too large a quotient, set OV and complete with status OK.
R510. -/
def Obligations.OverflowIsNoFault : Prop :=
  ∀ s : State, s.halt = false →
    let completes : Instr → Prop := fun i =>
      ∃ t, exec i s = .next t ∧ t.ov = true ∧ t.pc = s.pc + 1 ∧ statusOf (exec i s) = .status .ok 0
    (∀ (m : Addr) (f : FieldSpec) (a : Nat), legalField f → addresses m s a →
      let v := viewVal (s.mem.read a) f
      let d := viewMag (s.mem.read a) f
      (2 ^ 30 ≤ (signed s.a.sign s.a.mag + v).natAbs → completes (.add m f)) ∧
      (2 ^ 30 ≤ (signed s.a.sign s.a.mag - v).natAbs → completes (.sub m f)) ∧
      (d = 0 ∨ 2 ^ 30 ≤ (s.a.mag * 2 ^ 30 + s.x.mag) / d → completes (.div m f))) ∧
    (∀ (m : Addr) (r : FullReg),
      (2 ^ 30 ≤ (signed (s.full r).sign (s.full r).mag + (ea m s).val).natAbs → completes (incOf r m)) ∧
      (2 ^ 30 ≤ (signed (s.full r).sign (s.full r).mag - (ea m s).val).natAbs → completes (decOf r m))) ∧
    ∀ (m : Addr) (i : IndexReg),
      (2 ^ 12 ≤ (signed (s.index i).sign (s.index i).mag + (ea m s).val).natAbs → completes (incIdx i m)) ∧
      (2 ^ 12 ≤ (signed (s.index i).sign (s.index i).mag - (ea m s).val).natAbs → completes (decIdx i m))

/-- O27. INCA, DECA, INCX and DECX add or subtract the effective address as a signed add of 30 bits (overflow value and zero sign: D15, D16).
R300 with R302, R303, R330, R331 and R264; the bits kept on overflow and the sign of a zero sum are the spec's own decisions D15 and D16. -/
def Obligations.IncreaseAndDecreaseFull : Prop :=
  ∀ (r : FullReg) (m : Addr) (s : State),
    (∃ t, exec (incOf r m) s = .next t ∧
      sumRule (signed (s.full r).sign (s.full r).mag + (ea m s).val) 30 (s.full r).sign (t.full r).sign (t.full r).mag
        s.ov t.ov ∧
      t = { s.setFull r (t.full r) with ov := t.ov, pc := s.pc + 1 }) ∧
    ∃ t, exec (decOf r m) s = .next t ∧
      sumRule (signed (s.full r).sign (s.full r).mag - (ea m s).val) 30 (s.full r).sign (t.full r).sign (t.full r).mag
        s.ov t.ov ∧
      t = { s.setFull r (t.full r) with ov := t.ov, pc := s.pc + 1 }

/-- O28. INC1..INC6 and DEC1..DEC6 are signed adds of 12 bits that set OV and never fault (overflow value and zero sign: D15, D16).
R300 with R306 to R329 and R264; the bits kept on overflow and the sign of a zero sum are the spec's own decisions D15 and D16. -/
def Obligations.IncreaseAndDecreaseIndex : Prop :=
  ∀ (i : IndexReg) (m : Addr) (s : State),
    (∃ t, exec (incIdx i m) s = .next t ∧
      sumRule (signed (s.index i).sign (s.index i).mag + (ea m s).val) 12 (s.index i).sign (t.index i).sign
        (t.index i).mag s.ov t.ov ∧
      t = { s.setIndex i (t.index i) with ov := t.ov, pc := s.pc + 1 }) ∧
    ∃ t, exec (decIdx i m) s = .next t ∧
      sumRule (signed (s.index i).sign (s.index i).mag - (ea m s).val) 12 (s.index i).sign (t.index i).sign
        (t.index i).mag s.ov t.ov ∧
      t = { s.setIndex i (t.index i) with ov := t.ov, pc := s.pc + 1 }

/-- O29. ENT and ENN of A and X replace the register by the effective address or its negative (sign of zero: decision D13).
R301 with R304, R305, R332 and R333; the sign of a zero effective address (R111) is the spec's own decision D13. -/
def Obligations.EnterFullRegister : Prop :=
  ∀ (r : FullReg) (m : Addr) (s : State),
    (∃ t, exec (entOf r m) s = .next t ∧ isSignOf (ea m s).val m.sign (t.full r).sign ∧
      (t.full r).mag = (ea m s).val.natAbs ∧ t = { s.setFull r (t.full r) with pc := s.pc + 1 }) ∧
    ∃ t, exec (ennOf r m) s = .next t ∧ isSignOf (-(ea m s).val) m.sign.flip (t.full r).sign ∧
      (t.full r).mag = (ea m s).val.natAbs ∧ t = { s.setFull r (t.full r) with pc := s.pc + 1 }

/-- O30. ENTi and ENNi replace Ii by the effective address or its negative when it fits, else fault (decisions D13, D18).
R301 with R308 to R329; the sign of a zero effective address and the fault are the spec's own decisions D13 and D18. -/
def Obligations.EnterIndexRegister : Prop :=
  ∀ (i : IndexReg) (m : Addr) (s : State),
    ((ea m s).val.natAbs < 4096 →
      (∃ t, exec (entIdx i m) s = .next t ∧ isSignOf (ea m s).val m.sign (t.index i).sign ∧
        (t.index i).mag = (ea m s).val.natAbs ∧ t = { s.setIndex i (t.index i) with pc := s.pc + 1 }) ∧
      ∃ t, exec (ennIdx i m) s = .next t ∧ isSignOf (-(ea m s).val) m.sign.flip (t.index i).sign ∧
        (t.index i).mag = (ea m s).val.natAbs ∧ t = { s.setIndex i (t.index i) with pc := s.pc + 1 }) ∧
    (4096 ≤ (ea m s).val.natAbs →
      exec (entIdx i m) s = .fault (.indexValueOutOfRange (ea m s).val) ∧
      exec (ennIdx i m) s = .fault (.indexValueOutOfRange (-(ea m s).val)))

/-- O31. The eight compares set CI from the signed values of the same field of the register and of the cell, and nothing else (decisions D5, D35, D41).
R341 to R348 (family rule R340; widening R40); the order of the registers in the opcodes, the widening of Ii in a compare
and -0 = +0 are the spec's own decisions D5, D35 and D41 (log entry 10, PRESUMED). -/
def Obligations.CompareSetsTheIndicator : Prop :=
  ∀ (m : Addr) (f : FieldSpec) (s : State), legalField f →
    (∀ r : FullReg,
      codedAs (compareOf r m f) (match r with | .a => 56 | .x => 63) (8 * f.l.val + f.r.val) ∧
      (∀ a : Nat, addresses m s a → exec (compareOf r m f) s =
      .next { s with
        ci := if viewVal (s.full r) f < viewVal (s.mem.read a) f then .less
          else if viewVal (s.full r) f = viewVal (s.mem.read a) f then .equal else .greater
        pc := s.pc + 1 }) ∧
      (outside m s → exec (compareOf r m f) s = .fault (.addressOutOfRange (ea m s).val))) ∧
    ∀ i : IndexReg,
      codedAs (compareIdx i m f)
        (match i with | .i1 => 57 | .i2 => 58 | .i3 => 59 | .i4 => 60 | .i5 => 61 | .i6 => 62)
        (8 * f.l.val + f.r.val) ∧
      (∀ a : Nat, addresses m s a → exec (compareIdx i m f) s =
      .next { s with
        ci := if viewVal (widened (s.index i)) f < viewVal (s.mem.read a) f then .less
          else if viewVal (widened (s.index i)) f = viewVal (s.mem.read a) f then .equal else .greater
        pc := s.pc + 1 }) ∧
      (outside m s → exec (compareIdx i m f) s = .fault (.addressOutOfRange (ea m s).val))

/-- O32. JMP goes to ea and leaves next in J; JSJ goes to ea and leaves J alone; outside memory both fault (decisions D6, D14).
R363 and R364 (family rule R360); the selectors F = 0 and F = 1 and the check of the target are the spec's own decisions D6
and D14 (log entry 10, PRESUMED). The premise on PC is that of every fetched instruction. -/
def Obligations.UnconditionalJumps : Prop :=
  ∀ (m : Addr) (s : State), s.pc.toNat < 4000 →
    codedAs (.jmp m) 39 0 ∧ codedAs (.jsj m) 39 1 ∧
    (¬ outside m s → taken m s (exec (.jmp m) s) ∧
      ∃ t, exec (.jsj m) s = .next t ∧ (t.pc.toNat : Int) = (ea m s).val ∧ t = { s with pc := t.pc }) ∧
    (outside m s → exec (.jmp m) s = .fault (.addressOutOfRange (ea m s).val) ∧
      exec (.jsj m) s = .fault (.addressOutOfRange (ea m s).val))

/-- O33. JOV jumps when OV = 1 and clears it; JNOV jumps when OV = 0 and never clears it (decisions D14, D34).
R365 and R366; where the target is checked and what a JNOV not taken leaves are the spec's own decisions D14 and D34. -/
def Obligations.OverflowJumps : Prop :=
  ∀ (m : Addr) (s : State), s.pc.toNat < 4000 →
    (s.ov = false → notTaken s (exec (.jov m) s)) ∧
    (s.ov = true → ¬ outside m s → ∃ t, exec (.jov m) s = .next t ∧ (t.pc.toNat : Int) = (ea m s).val ∧
      t.j.sign = .plus ∧ t.j.mag = s.pc.toNat + 1 ∧ t = { s with pc := t.pc, j := t.j, ov := false }) ∧
    (s.ov = true → outside m s → exec (.jov m) s = .fault (.addressOutOfRange (ea m s).val)) ∧
    jumpsWhen (s.ov = false) m s (exec (.jnov m) s)

/-- O34. JL, JE, JG, JGE, JNE and JLE follow CI; while CI is UNSET none of them is taken (decisions D14, D22).
R367 to R372 by the table of R361; where the target is checked and the rule for UNSET are the spec's own decisions D14 and D22. -/
def Obligations.ComparisonJumps : Prop :=
  ∀ (m : Addr) (s : State), s.pc.toNat < 4000 →
    jumpsWhen (s.ci = .less) m s (exec (.jl m) s) ∧
    jumpsWhen (s.ci = .equal) m s (exec (.je m) s) ∧
    jumpsWhen (s.ci = .greater) m s (exec (.jg m) s) ∧
    jumpsWhen (s.ci = .greater ∨ s.ci = .equal) m s (exec (.jge m) s) ∧
    jumpsWhen (s.ci = .less ∨ s.ci = .greater) m s (exec (.jne m) s) ∧
    jumpsWhen (s.ci = .less ∨ s.ci = .equal) m s (exec (.jle m) s)

/-- O35. The 48 register jumps test the signed value of A, X or Ii, in which -0 is zero (decisions D5, D7, D14, D39).
R373 to R420 by the table of R362; the codes, the check of the target and the reading of -0 are the spec's own decisions D5, D7, D14 and D39. -/
def Obligations.RegisterJumps : Prop :=
  ∀ (c : SignTest) (m : Addr) (s : State), s.pc.toNat < 4000 →
    (∀ r : FullReg, jumpsWhen (condition c (signed (s.full r).sign (s.full r).mag)) m s (exec (jumpOf r c m) s)) ∧
    ∀ i : IndexReg, jumpsWhen (condition c (signed (s.index i).sign (s.index i).mag)) m s (exec (jumpIdx i c m) s)

/-- O36. SLA and SRA move A's bytes by ea mod 5 positions and fill with zeros; a negative count faults (decisions D8, D19).
R441 and R442 (family rule R440); the direction and the fault are the spec's own decisions D8 and D19. -/
def Obligations.ShiftsOfA : Prop :=
  ∀ (m : Addr) (s : State),
    (∀ e : Nat, (ea m s).val = e →
      (∃ t, exec (.sla m) s = .next t ∧ t.a.sign = s.a.sign ∧
        (∀ k, 1 ≤ k → k ≤ 5 → t.a.byte k = if k + e % 5 ≤ 5 then s.a.byte (k + e % 5) else 0) ∧
        t = { s with a := t.a, pc := s.pc + 1 }) ∧
      ∃ t, exec (.sra m) s = .next t ∧ t.a.sign = s.a.sign ∧
        (∀ k, 1 ≤ k → k ≤ 5 → t.a.byte k = if e % 5 < k then s.a.byte (k - e % 5) else 0) ∧
        t = { s with a := t.a, pc := s.pc + 1 }) ∧
    ((ea m s).val < 0 → exec (.sla m) s = .fault (.invalidShiftCount (ea m s).val) ∧
      exec (.sra m) s = .fault (.invalidShiftCount (ea m s).val))

/-- O37. SLAX, SRAX, SLC and SRC move the ten bytes of A and X by ea mod 10 positions; a negative count faults (decisions D8, D19).
R443 to R446 (family rule R440); the direction, the order A then X and the fault are the spec's own decisions D8 and D19. -/
def Obligations.ShiftsOfAX : Prop :=
  ∀ (m : Addr) (s : State),
    (∀ e : Nat, (ea m s).val = e →
      (∃ t, exec (.slax m) s = .next t ∧ t.a.sign = s.a.sign ∧ t.x.sign = s.x.sign ∧
        (∀ k, 1 ≤ k → k ≤ 10 → axByte t k = if k + e % 10 ≤ 10 then axByte s (k + e % 10) else 0) ∧
        t = { s with a := t.a, x := t.x, pc := s.pc + 1 }) ∧
      (∃ t, exec (.srax m) s = .next t ∧ t.a.sign = s.a.sign ∧ t.x.sign = s.x.sign ∧
        (∀ k, 1 ≤ k → k ≤ 10 → axByte t k = if e % 10 < k then axByte s (k - e % 10) else 0) ∧
        t = { s with a := t.a, x := t.x, pc := s.pc + 1 }) ∧
      (∃ t, exec (.slc m) s = .next t ∧ t.a.sign = s.a.sign ∧ t.x.sign = s.x.sign ∧
        (∀ k, 1 ≤ k → k ≤ 10 → axByte t k = axByte s ((k - 1 + e % 10) % 10 + 1)) ∧
        t = { s with a := t.a, x := t.x, pc := s.pc + 1 }) ∧
      (∃ t, exec (.src m) s = .next t ∧ t.a.sign = s.a.sign ∧ t.x.sign = s.x.sign ∧
        (∀ k, 1 ≤ k → k ≤ 10 → axByte t k = axByte s ((k - 1 + 10 - e % 10) % 10 + 1)) ∧
        t = { s with a := t.a, x := t.x, pc := s.pc + 1 })) ∧
    ((ea m s).val < 0 → ∀ i ∈ [Instr.slax m, .srax m, .slc m, .src m],
      exec i s = .fault (.invalidShiftCount (ea m s).val))

/-- O38. MOVE copies the old contents of F words to the run at I1 and advances I1; a zero count does nothing (snapshot: decision D20).
R450; the snapshot, the checks and the sign of I1 are the spec's own decision D20. Premise: the memory is in canonical form. -/
def Obligations.MoveCopiesTheRun : Prop :=
  ∀ (m : Addr) (n : Byte) (s : State), s.mem.wf = true →
    (n = 0 → exec (.move m n) s = .next { s with pc := s.pc + 1 }) ∧
    ∀ a b : Nat, n ≠ 0 → (ea m s).val = a → signed s.i1.sign s.i1.mag = b → a + n.toNat ≤ 4000 → b + n.toNat ≤ 4000 →
      ∃ t, exec (.move m n) s = .next t ∧
        (∀ k < n.toNat, t.mem.read (b + k) = s.mem.read (a + k)) ∧
        (∀ c, c < b ∨ b + n.toNat ≤ c → t.mem.read c = s.mem.read c) ∧
        t.i1.sign = .plus ∧ t.i1.mag = b + n.toNat ∧ t = { s with mem := t.mem, i1 := t.i1, pc := s.pc + 1 }

/-- O39. MOVE checks the source start, source end, destination start and destination end, in that order (decisions D20, D24).
R450 and the order of R511: the spec's own decisions D20 and D24. -/
def Obligations.MoveOutsideMemoryFaults : Prop :=
  ∀ (m : Addr) (n : Byte) (s : State), n ≠ 0 →
    let src := (ea m s).val
    let dst := signed s.i1.sign s.i1.mag
    let starts : Int → Prop := fun a => 0 ≤ a ∧ a < 4000
    let fits : Int → Prop := fun a => a + n.toNat ≤ 4000
    (¬ starts src → exec (.move m n) s = .fault (.addressOutOfRange src)) ∧
    (starts src → ¬ fits src → exec (.move m n) s = .fault (.addressOutOfRange 4000)) ∧
    (starts src → fits src → ¬ starts dst → exec (.move m n) s = .fault (.addressOutOfRange dst)) ∧
    (starts src → fits src → starts dst → ¬ fits dst → exec (.move m n) s = .fault (.addressOutOfRange 4000))

/-- O40. NOP only advances PC; HLT sets HALT, advances PC, returns HALTED, and the core then stays as it is (decisions D9, D29, D37, D40).
R460 and R461; the opcodes, PC after HLT, the flag and NOP's unchecked address are the spec's own decisions D9, D29, D40 and D37. -/
def Obligations.NopAndHalt : Prop :=
  ∀ (m : Addr) (s : State),
    (∀ f : Byte, exec (.nop m f) s = .next { s with pc := s.pc + 1 }) ∧
    ∃ t, exec (.hlt m) s = .next t ∧ t = { s with halt := true, pc := s.pc + 1 } ∧
      statusOf (exec (.hlt m) s) = .status .halted 0 ∧
      ∀ stepped : Bool, Session.stepOp ⟨t, stepped⟩ = (.status .halted 0, ⟨t, true⟩)

/-- O41. NUM and CHAR always end in InvalidOpcode(320) and (321), and every I/O instruction in NoDevice of its unit (decisions D9, D10).
R462 to R468: the stops of the instructions that are out of scope, numbered by the spec's own decision D9, and of the I/O
instructions under the only admitted registry, the empty one of decision D10. -/
def Obligations.OutOfScopeInstructionsFault : Prop :=
  ∀ (m : Addr) (u : Byte) (s : State),
    exec (.num m) s = .fault (.invalidOpcode (64 * (encode (.num m)).b5.toNat + (encode (.num m)).b4.toNat)) ∧
    exec (.num m) s = .fault (.invalidOpcode 320) ∧
    exec (.char m) s = .fault (.invalidOpcode (64 * (encode (.char m)).b5.toNat + (encode (.char m)).b4.toNat)) ∧
    exec (.char m) s = .fault (.invalidOpcode 321) ∧
    exec (.jbus m u) s = .fault (.noDevice u.toNat) ∧ exec (.ioc m u) s = .fault (.noDevice u.toNat) ∧
    exec (.inp m u) s = .fault (.noDevice u.toNat) ∧ exec (.out m u) s = .fault (.noDevice u.toNat) ∧
    exec (.jred m u) s = .fault (.noDevice u.toNat)

/-- O42. Reset zeroes every register and cell, clears the flags and sets PC to start (which zero, HALT and the admitted starts: D11, D40, D45).
R540, R541, R542 and R470; which zero, the HALT flag and the refusals are the spec's own decisions D11, D40, D45 and D10. The value Config.start of State.reset is the model's choice (log entry 1) and nothing here rests on it. -/
def Obligations.ResetGivesEveryPieceOfState : Prop :=
  ∀ (c : Session) (start : Int) (devices : List Nat),
    (0 ≤ start → start < 4000 → devices = [] →
      ∃ t, c.perform (.reset start devices) = (.done, ⟨t, false⟩) ∧ (t.pc.toNat : Int) = start ∧
        t.a = ⟨.plus, 0, 0, 0, 0, 0⟩ ∧ t.x = ⟨.plus, 0, 0, 0, 0, 0⟩ ∧ (∀ i, t.index i = ⟨.plus, 0, 0⟩) ∧
        t.j = ⟨.plus, 0, 0⟩ ∧ t.ov = false ∧ t.ci = .unset ∧ t.halt = false ∧
        ∀ a : Nat, t.mem.read a = ⟨.plus, 0, 0, 0, 0, 0⟩) ∧
    (start < 0 ∨ 4000 ≤ start ∨ devices ≠ [] →
      (c.perform (.reset start devices)).2 = c ∧ ∃ r, (c.perform (.reset start devices)).1 = .refused r)

/-- O43. The invariant holds at reset, at every admitted start, and after every load.
R540 to R544, R46 and R49: the base case of the invariant. (The canonical form is the model's own way of holding memory, log entry 2; the start of State.reset is log entry 1.) -/
def Obligations.InvariantHoldsAfterBoot : Prop :=
  State.reset.Inv ∧ ∀ s : State, Booted s → s.Inv

/-- O44. Every step keeps the invariant: memory canonical and inside [0,4000), J positive, PC at most 4000.
R46, R47, R49, R80, R82 and R512, over all 144 instructions. (The canonical form of memory is the model's own, log entry 2.) -/
def Obligations.EveryStepKeepsTheInvariant : Prop :=
  ∀ s t : State, s.Inv → step s = .next t → t.Inv

/-- O45. In every state a run reaches the invariant holds, and CI is UNSET only until a compare has run.
R516 and R544 (runs), R51 (UNSET only before any comparison has executed). -/
def Obligations.ReachableStatesAreLegal : Prop :=
  (∀ s : State, Reachable s → s.Inv) ∧
    ∀ s t : State, s.ci ≠ .unset → step s = .next t → t.ci ≠ .unset

/-- O46. Only ADD, SUB, DIV, INC and DEC set OV, and only a taken JOV clears it (the reading of conflict C6).
R50, as the spec resolves its conflict C6. -/
def Obligations.OverflowToggleRule : Prop :=
  ∀ (i : Instr) (s t : State), exec i s = .next t →
    (s.ov = false → t.ov = true → mayOverflow i = true) ∧
    (s.ov = true → t.ov = false → ∃ m, i = .jov m ∧ (t.pc.toNat : Int) = (ea m s).val)

/-- O47. Only the eight compares write CI, each to LESS, EQUAL or GREATER.
R51 and R340. -/
def Obligations.ComparisonIndicatorRule : Prop :=
  ∀ (i : Instr) (s t : State), exec i s = .next t →
    (isCompare i = false → t.ci = s.ci) ∧ (isCompare i = true → t.ci ≠ .unset)

/-- O48. Only taken jumps other than JSJ write J, with the address of the next instruction (its range is decision D38).
R46 and R360; that J can hold 4000 is the spec's own decision D38. -/
def Obligations.JumpRegisterRule : Prop :=
  ∀ (i : Instr) (s t : State), s.pc.toNat < 4000 → exec i s = .next t → t.j ≠ s.j →
    isJump i = true ∧ (∀ m, i ≠ .jsj m) ∧ (t.pc.toNat : Int) = (ea (addrOf i) s).val ∧
      t.j.sign = .plus ∧ t.j.mag = s.pc.toNat + 1

/-- O49. After every completed instruction PC is next, or the target in [0,4000) of a jump (PC's width is decision D4).
R49 and R113; the width of PC is the spec's own decision D4. -/
def Obligations.ProgramCounterRule : Prop :=
  ∀ (i : Instr) (s t : State), s.pc.toNat < 4000 → exec i s = .next t →
    t.pc.toNat = s.pc.toNat + 1 ∨
    (isJump i = true ∧ ¬ outside (addrOf i) s ∧ (t.pc.toNat : Int) = (ea (addrOf i) s).val)

/-- O50. Only HLT sets HALT, and no instruction clears it (the flag is decision D40).
R52, the spec's own decision D40. -/
def Obligations.HaltFlagRule : Prop :=
  ∀ (i : Instr) (s t : State), exec i s = .next t →
    (t.halt = true ↔ s.halt = true ∨ ∃ m, i = .hlt m)

/-- O51. Only the stores and MOVE write memory; every other completed instruction leaves every word as it was.
R86 and R90. -/
def Obligations.MemoryWritersRule : Prop :=
  ∀ (i : Instr) (s t : State), exec i s = .next t → writesMemory i = false →
    t.mem = s.mem ∧ ∀ a : Nat, t.mem.read a = s.mem.read a

/-- O52. Only the instructions that the access table lists write, or read, each register.
R48, in one direction: what an instruction that the table does not list leaves alone. What a listed instruction writes and
reads is said by the statements of its family. -/
def Obligations.RegisterAccessSummary : Prop :=
  ∀ (r : Reg) (i : Instr) (s : State), s.j.sign = .plus →
    (∀ t, writesReg r i = false → exec i s = .next t → t.readReg r = s.readReg r) ∧
    (readsReg r i = false → ∀ v : Word, agreeBut r s (put s r v) (exec i s) (exec i (put s r v)))

/-- O53. No instruction other than JOV and JNOV reads OV, and only JL, JE, JG, JGE, JNE and JLE read CI.
R50 and R51, their sentences on who reads the flag. -/
def Obligations.FlagsAreReadByTheirJumpsOnly : Prop :=
  ∀ (i : Instr) (s : State),
    ((∀ m, i ≠ .jov m ∧ i ≠ .jnov m) → ∀ b : Bool,
      agreeUpTo (fun t t' => t' = { t with ov := t'.ov }) (exec i s) (exec i { s with ov := b })) ∧
    (readsCi i = false → ∀ c : Indicator,
      agreeUpTo (fun t t' => t' = { t with ci := t'.ci }) (exec i s) (exec i { s with ci := c }))

/-- O54. What a store or a MOVE writes is what every fetch of that cell from then on decodes; over its own cell it still completes (D20, D31).
R92 and R93; that no fence is needed is the spec's own decision D31, MOVE's snapshot is D20 (log entry 10, PRESUMED).
Premise: the memory is in canonical form. -/
def Obligations.StoredWordIsFetchedNext : Prop :=
  ∀ s : State, s.mem.wf = true → s.halt = false → s.pc.toNat < 4000 →
    (∀ (i : Instr) (m : Addr) (f : FieldSpec) (src : Word) (c : Nat), i.WellFormed →
      s.mem.read s.pc.toNat = encode i → storeParts s i = some (m, f, src) → addresses m s c →
      ∃ t, step s = .next t ∧ t.pc.toNat = s.pc.toNat + 1 ∧ t.halt = false ∧
        fieldReplaced (s.mem.read c) src f (t.mem.read c) ∧ fetchedFrom t.mem c) ∧
    ∀ (m : Addr) (n : Byte) (a b : Nat), s.mem.read s.pc.toNat = encode (.move m n) → n ≠ 0 →
      (ea m s).val = a → signed s.i1.sign s.i1.mag = b → a + n.toNat ≤ 4000 → b + n.toNat ≤ 4000 →
      ∃ t, step s = .next t ∧ t.pc.toNat = s.pc.toNat + 1 ∧ t.halt = false ∧
        ∀ k < n.toNat, t.mem.read (b + k) = s.mem.read (a + k) ∧ fetchedFrom t.mem (b + k)

/-- O55. A step that ends in a fault leaves the whole state as it was, PC included, and reports a fault status (codes 2 to 8: decision D23).
R502; the numeric codes of R501 are the spec's own decision D23 (log entry 10, PRESUMED). -/
def Obligations.FaultChangesNothing : Prop :=
  ∀ (c : Session) (f : Fault), step c.core = .fault f →
    c.stepOp.2.core = c.core ∧ ∃ st info, c.stepOp.1 = .status st info ∧ st ≠ .ok ∧ st ≠ .halted ∧ 2 ≤ st.code ∧
      st.code ≤ 8

/-- O56. After a fault every further step returns the same fault and no load can patch the program (decisions D26, D32).
R514 and R532, the spec's own decisions D26 and D32. -/
def Obligations.FaultIsStickyUntilReset : Prop :=
  ∀ (c : Session) (f : Fault), step c.core = .fault f →
    ∀ n : Nat, (fun d : Session => d.stepOp.2)^[n + 1] c = c.stepOp.2 ∧ c.stepOp.2.stepOp = c.stepOp ∧
      ∀ (addr : Int) (w : Word), ∃ r, c.stepOp.2.perform (.load addr w) = (.refused r, c.stepOp.2)

/-- O57. load places one word before the first step, and is refused after it or outside memory (decision D32).
R532, the spec's own decision D32. Premise: the memory is in canonical form. -/
def Obligations.LoadPlacesOneWord : Prop :=
  ∀ (c : Session) (addr : Int) (w : Word), c.core.mem.wf = true →
    (c.stepped = false → ∀ a : Nat, addr = a → a < 4000 →
      ∃ d, c.perform (.load addr w) = (.done, d) ∧ d.stepped = false ∧ d.core.mem.read a = w ∧
        (∀ b : Nat, b ≠ a → d.core.mem.read b = c.core.mem.read b) ∧ d.core.mem.wf = true ∧
        d.core = { c.core with mem := d.core.mem }) ∧
    (c.stepped = true ∨ addr < 0 ∨ 4000 ≤ addr → ∃ r, c.perform (.load addr w) = (.refused r, c))

/-- O58. A run ends at the first step whose status is not OK: after a HLT with HALT = 1 and PC next, at a fault with the core before it (D46).
R516, the spec's own decision D46; PC after HLT and the flag are its decisions D29 and D40 (log entry 10, PRESUMED). The
bound n is the model's: a run in which every step returns OK never ends. -/
def Obligations.RunEndsAtTheFirstStatusNotOk : Prop :=
  ∀ (c : Session) (n : Nat),
    let after : Nat → Session := fun k => (fun e : Session => e.stepOp.2)^[k] c
    let goesOn : Nat → Prop := fun k => ∀ j < k, (after j).stepOp.1 = .status .ok 0
    (∀ (st : Status) (info : Int) (d : Session), st ≠ .ok →
      (c.run n = (.status st info, d) ↔ ∃ k < n, goesOn k ∧ (after k).stepOp = (.status st info, d)) ∧
      ∀ k : Nat, (after k).stepOp = (.status st info, d) →
        d.core =
          if st = .halted ∧ (after k).core.halt = false then
            { (after k).core with halt := true, pc := (after k).core.pc + 1 }
          else (after k).core) ∧
    (goesOn n → c.run n = (.status .ok 0, after n))

/-- O59. The opcode map: the opcode, F, sign, address and index byte of the word of each of the 144 instructions (decisions D5 to D10, D21).
R107 with R101, R102, R104 and R106; the order of the registers, the selectors, the opcodes 0, 5 and 34 to 38 and STJ's one F are
the spec's own decisions D5 to D10 and D21 (log entry 10, PRESUMED). The decoder accepts no
other words (DecodeThenEncodeIsIdentity). -/
def Obligations.EveryInstructionHasItsCode : Prop :=
  ∀ m : Addr,
    (∀ f : FieldSpec,
      let F := 8 * f.l.val + f.r.val
      opcodesFrom 1 F [.add m f, .sub m f, .mul m f, .div m f] ∧
      opcodesFrom 8 F [.lda m f, .ld1 m f, .ld2 m f, .ld3 m f, .ld4 m f, .ld5 m f, .ld6 m f, .ldx m f] ∧
      opcodesFrom 16 F [.ldan m f, .ld1n m f, .ld2n m f, .ld3n m f, .ld4n m f, .ld5n m f, .ld6n m f, .ldxn m f] ∧
      opcodesFrom 24 F [.sta m f, .st1 m f, .st2 m f, .st3 m f, .st4 m f, .st5 m f, .st6 m f, .stx m f] ∧
      opcodesFrom 33 F [.stz m f] ∧
      opcodesFrom 56 F [.cmpa m f, .cmp1 m f, .cmp2 m f, .cmp3 m f, .cmp4 m f, .cmp5 m f, .cmp6 m f, .cmpx m f]) ∧
    selectorsOf 5 [.num m, .char m, .hlt m] ∧
    selectorsOf 6 [.sla m, .sra m, .slax m, .srax m, .slc m, .src m] ∧
    selectorsOf 39 [.jmp m, .jsj m, .jov m, .jnov m, .jl m, .je m, .jg m, .jge m, .jne m, .jle m] ∧
    selectorsOf 40 [.jan m, .jaz m, .jap m, .jann m, .janz m, .janp m] ∧
    selectorsOf 41 [.j1n m, .j1z m, .j1p m, .j1nn m, .j1nz m, .j1np m] ∧
    selectorsOf 42 [.j2n m, .j2z m, .j2p m, .j2nn m, .j2nz m, .j2np m] ∧
    selectorsOf 43 [.j3n m, .j3z m, .j3p m, .j3nn m, .j3nz m, .j3np m] ∧
    selectorsOf 44 [.j4n m, .j4z m, .j4p m, .j4nn m, .j4nz m, .j4np m] ∧
    selectorsOf 45 [.j5n m, .j5z m, .j5p m, .j5nn m, .j5nz m, .j5np m] ∧
    selectorsOf 46 [.j6n m, .j6z m, .j6p m, .j6nn m, .j6nz m, .j6np m] ∧
    selectorsOf 47 [.jxn m, .jxz m, .jxp m, .jxnn m, .jxnz m, .jxnp m] ∧
    selectorsOf 48 [.inca m, .deca m, .enta m, .enna m] ∧
    selectorsOf 49 [.inc1 m, .dec1 m, .ent1 m, .enn1 m] ∧
    selectorsOf 50 [.inc2 m, .dec2 m, .ent2 m, .enn2 m] ∧
    selectorsOf 51 [.inc3 m, .dec3 m, .ent3 m, .enn3 m] ∧
    selectorsOf 52 [.inc4 m, .dec4 m, .ent4 m, .enn4 m] ∧
    selectorsOf 53 [.inc5 m, .dec5 m, .ent5 m, .enn5 m] ∧
    selectorsOf 54 [.inc6 m, .dec6 m, .ent6 m, .enn6 m] ∧
    selectorsOf 55 [.incx m, .decx m, .entx m, .ennx m] ∧
    codedAs (.stj m) 32 2 ∧
    (∀ b : Byte, codedAs (.nop m b) 0 b.toNat ∧ codedAs (.move m b) 7 b.toNat ∧
      opcodesFrom 34 b.toNat [.jbus m b, .ioc m b, .inp m b, .out m b, .jred m b]) ∧
    ∀ i : Instr, (encode i).sign = (addrOf i).sign ∧
      (encode i).b1.toNat * 64 + (encode i).b2.toNat = (addrOf i).mag.toNat ∧
      (encode i).b3.toNat =
        match (addrOf i).index with
        | none => 0 | some .i1 => 1 | some .i2 => 2 | some .i3 => 3 | some .i4 => 4 | some .i5 => 5 | some .i6 => 6

end
end

