-- ==== Sys2Proof/Laws/Codec.lean ====
section
/-! SUPPORT. Laws of the word codec and the field unit. -/

namespace Sys2Proof

/-! ## Signs -/

@[simp] theorem Sign.apply_zero (s : Sign) : s.apply 0 = 0 := by cases s <;> rfl

@[simp] theorem Sign.apply_natAbs (s : Sign) (m : Nat) : (s.apply m).natAbs = m := by
  cases s <;> simp [Sign.apply]

theorem Sign.flip_apply (s : Sign) (m : Nat) : s.flip.apply m = -(s.apply m) := by
  cases s <;> simp [Sign.apply, Sign.flip]

/-- A number is its sign, the one of a nonzero number, on its absolute value. -/
theorem Sign.ofInt_apply (t : Int) (z : Sign) : (Sign.ofInt t z).apply t.natAbs = t := by
  unfold Sign.ofInt
  split
  · simp only [Sign.apply]; omega
  · split
    · simp only [Sign.apply]; omega
    · have : t = 0 := by omega
      subst this; simp

theorem Sign.ofInt_of_neg {t : Int} (h : t < 0) (z : Sign) : Sign.ofInt t z = .minus := by simp [Sign.ofInt, h]

theorem Sign.ofInt_of_pos {t : Int} (h : 0 < t) (z : Sign) : Sign.ofInt t z = .plus := by
  have : ¬ t < 0 := by omega
  simp [Sign.ofInt, h, this]

@[simp] theorem Sign.ofInt_zero (z : Sign) : Sign.ofInt 0 z = z := by simp [Sign.ofInt]

@[simp] theorem Sign.ofBit_bit (s : Sign) : Sign.ofBit s.bit = s := by cases s <;> rfl

/-! ## Words and magnitudes -/

/-- The magnitude as the sum of R11. -/
theorem Word.mag_eq (w : Word) :
    w.mag = w.b1.toNat * 64 ^ 4 + w.b2.toNat * 64 ^ 3 + w.b3.toNat * 64 ^ 2 + w.b4.toNat * 64 + w.b5.toNat := by
  unfold Word.mag; omega

theorem Word.mag_lt (w : Word) : w.mag < 2 ^ 30 := by
  have h1 := w.b1.isLt; have h2 := w.b2.isLt; have h3 := w.b3.isLt; have h4 := w.b4.isLt; have h5 := w.b5.isLt
  unfold Word.mag; omega

@[simp] theorem Word.sign_ofMag (s : Sign) (m : Nat) : (Word.ofMag s m).sign = s := (rfl)

theorem Word.mag_ofMag (s : Sign) (m : Nat) : (Word.ofMag s m).mag = m % 2 ^ 30 := by
  simp only [Word.mag, Word.ofMag, BitVec.toNat_ofNat]; omega

theorem Word.mag_ofMag_of_lt (s : Sign) {m : Nat} (h : m < 2 ^ 30) : (Word.ofMag s m).mag = m := by
  rw [Word.mag_ofMag, Nat.mod_eq_of_lt h]

@[simp] theorem Word.ofMag_mag (w : Word) : Word.ofMag w.sign w.mag = w := by
  have h1 := w.b1.isLt; have h2 := w.b2.isLt; have h3 := w.b3.isLt; have h4 := w.b4.isLt; have h5 := w.b5.isLt
  rcases w with ⟨s, b1, b2, b3, b4, b5⟩
  simp only [Word.ofMag, Word.mag, Word.mk.injEq, true_and] at *
  refine ⟨?_, ?_, ?_, ?_, ?_⟩ <;> apply BitVec.eq_of_toNat_eq <;> rw [BitVec.toNat_ofNat] <;> omega

/-- A word is its sign and its magnitude. -/
theorem Word.ext_mag {w v : Word} (hs : w.sign = v.sign) (hm : w.mag = v.mag) : w = v := by
  rw [← Word.ofMag_mag w, ← Word.ofMag_mag v, hs, hm]

@[simp] theorem Word.mag_zero : Word.zero.mag = 0 := (rfl)

@[simp] theorem Word.sign_zero : Word.zero.sign = .plus := (rfl)

theorem Word.val_natAbs (w : Word) : w.val.natAbs = w.mag := Sign.apply_natAbs _ _

/-- The five bytes of a magnitude: byte i is its digit of weight 64^(5-i). -/
theorem Word.byte_ofMag (s : Sign) (m i : Nat) (h1 : 1 ≤ i) (h5 : i ≤ 5) :
    (Word.ofMag s m).byte i = .ofNat 6 (m / 64 ^ (5 - i)) := by
  interval_cases i <;> simp [Word.byte, Word.ofMag]

/-- The digit of weight 64^(5-i) of a word's magnitude is byte i. -/
theorem Word.byte_eq (w : Word) (i : Nat) (h1 : 1 ≤ i) (h5 : i ≤ 5) :
    w.byte i = .ofNat 6 (w.mag / 64 ^ (5 - i)) := by
  conv_lhs => rw [← Word.ofMag_mag w]
  exact Word.byte_ofMag _ _ _ h1 h5

/-- Two words with the same sign and the same bytes 1..5 are equal. -/
theorem Word.ext_byte {w v : Word} (hs : w.sign = v.sign) (hb : ∀ i, 1 ≤ i → i ≤ 5 → w.byte i = v.byte i) : w = v := by
  rcases w with ⟨s, b1, b2, b3, b4, b5⟩
  rcases v with ⟨s', c1, c2, c3, c4, c5⟩
  have k1 := hb 1; have k2 := hb 2; have k3 := hb 3; have k4 := hb 4; have k5 := hb 5
  simp_all [Word.byte]

/-! ## Half registers -/

theorem Half.mag_lt (h : Half) : h.mag < 2 ^ 12 := by
  have h1 := h.h1.isLt; have h2 := h.h2.isLt
  unfold Half.mag; omega

@[simp] theorem Half.sign_ofMag (s : Sign) (m : Nat) : (Half.ofMag s m).sign = s := (rfl)

theorem Half.mag_ofMag (s : Sign) (m : Nat) : (Half.ofMag s m).mag = m % 2 ^ 12 := by
  simp only [Half.mag, Half.ofMag, BitVec.toNat_ofNat]; omega

theorem Half.mag_ofMag_of_lt (s : Sign) {m : Nat} (h : m < 2 ^ 12) : (Half.ofMag s m).mag = m := by
  rw [Half.mag_ofMag, Nat.mod_eq_of_lt h]

@[simp] theorem Half.ofMag_mag (h : Half) : Half.ofMag h.sign h.mag = h := by
  have h1 := h.h1.isLt; have h2 := h.h2.isLt
  rcases h with ⟨s, a, b⟩
  simp only [Half.ofMag, Half.mag, Half.mk.injEq, true_and] at *
  refine ⟨?_, ?_⟩ <;> apply BitVec.eq_of_toNat_eq <;> rw [BitVec.toNat_ofNat] <;> omega

/-- A half register's contents are their sign and their magnitude. -/
theorem Half.ext_mag {h k : Half} (hs : h.sign = k.sign) (hm : h.mag = k.mag) : h = k := by
  rw [← Half.ofMag_mag h, ← Half.ofMag_mag k, hs, hm]

theorem Half.val_natAbs (h : Half) : h.val.natAbs = h.mag := Sign.apply_natAbs _ _

@[simp] theorem pad_sign (h : Half) : (pad h).sign = h.sign := (rfl)

@[simp] theorem pad_mag (h : Half) : (pad h).mag = h.mag := by simp [pad, Word.mag, Half.mag]

@[simp] theorem pad_val (h : Half) : (pad h).val = h.val := by simp [Word.val, Half.val]

/-- A word fits a half register exactly when its magnitude is below 4096 (R201). -/
theorem Word.fitsHalf_iff (w : Word) : w.fitsHalf = true ↔ w.mag < 4096 := by
  have h1 := w.b1.isLt; have h2 := w.b2.isLt; have h3 := w.b3.isLt; have h4 := w.b4.isLt; have h5 := w.b5.isLt
  have h0 : (0 : Byte).toNat = 0 := (rfl)
  simp only [Word.fitsHalf, Word.mag, Bool.decide_and, Bool.and_eq_true, decide_eq_true_eq, ← BitVec.toNat_inj, h0]
  omega

@[simp] theorem Word.half_sign (w : Word) : w.half.sign = w.sign := (rfl)

theorem Word.half_mag (w : Word) : w.half.mag = w.mag % 4096 := by
  have h4 := w.b4.isLt; have h5 := w.b5.isLt
  simp only [Word.half, Half.mag, Word.mag]; omega

/-- A word that fits is the widened half register. -/
theorem Word.pad_half {w : Word} (h : w.fitsHalf = true) : pad w.half = w := by
  rw [Word.fitsHalf_iff] at h
  refine Word.ext_mag (by rfl) ?_
  rw [pad_mag, Word.half_mag, Nat.mod_eq_of_lt h]

/-! ## The 31-bit encoding -/

theorem Word.enc_lt (w : Word) : w.enc < 2 ^ 31 := by
  have := w.mag_lt
  unfold Word.enc
  cases w.sign <;> simp only [Sign.bit] <;> omega

/-- The word of a word's encoding is the word (R31). -/
theorem Word.ofEnc_enc (w : Word) : Word.ofEnc w.enc = w := by
  have hm := w.mag_lt
  apply Word.ext_mag
  · have : (w.sign.bit * 2 ^ 30 + w.mag) / 2 ^ 30 = w.sign.bit := by omega
    rw [Word.ofEnc, Word.sign_ofMag, Word.enc, this, Sign.ofBit_bit]
  · rw [Word.ofEnc, Word.mag_ofMag, Word.enc]; omega

/-- The encoding of the word of a 31-bit number is the number (R31). -/
theorem Word.enc_ofEnc {n : Nat} (h : n < 2 ^ 31) : (Word.ofEnc n).enc = n := by
  simp only [Word.enc, Word.ofEnc, Word.sign_ofMag, Word.mag_ofMag, Sign.ofBit]
  split <;> simp only [Sign.bit] <;> omega

/-! ## The field unit -/

@[simp] theorem negate_sign (w : Word) : (negate w).sign = w.sign.flip := (rfl)

@[simp] theorem negate_mag (w : Word) : (negate w).mag = w.mag := (rfl)

theorem negate_val (w : Word) : (negate w).val = -w.val := Sign.flip_apply _ _

theorem FieldSpec.legal_iff (f : FieldSpec) : f.legal = true ↔ f.l.val ≤ f.r.val := by
  rw [FieldSpec.legal, decide_eq_true_eq, Fin.le_def]

theorem fieldView_sign (w : Word) (f : FieldSpec) :
    (fieldView w f).sign = if f.l = 0 then w.sign else .plus := (rfl)

theorem FieldSpec.count_le (f : FieldSpec) : f.count ≤ 5 := by
  have := f.r.isLt
  unfold FieldSpec.count FieldSpec.lo; omega

theorem fieldView_mag (w : Word) (f : FieldSpec) :
    (fieldView w f).mag = w.mag / 64 ^ (5 - f.r.val) % 64 ^ f.count := by
  unfold fieldView
  apply Word.mag_ofMag_of_lt
  have hlt := Nat.mod_lt (w.mag / 64 ^ (5 - f.r.val)) (Nat.pow_pos (n := f.count) (show 0 < 64 by decide))
  have hle : 64 ^ f.count ≤ 64 ^ 5 := Nat.pow_le_pow_right (by decide) f.count_le
  omega

theorem applyField_sign (dst v : Word) (f : FieldSpec) :
    (applyField dst f v).sign = if f.l = 0 then v.sign else dst.sign := (rfl)

/-- Each data byte of a field write (R38). -/
theorem applyField_byte (dst v : Word) (f : FieldSpec) (i : Nat) (h1 : 1 ≤ i) (h5 : i ≤ 5) :
    (applyField dst f v).byte i = applyByte dst f v i := by
  interval_cases i <;> rfl

end Sys2Proof
end

