-- ==== Sys2Proof/Laws/Decode.lean ====
section
/-! SUPPORT. The parts of an instruction word, decoded and encoded. -/

namespace Sys2Proof

@[simp] theorem decodeIndex_encodeIndex (ix : Option IndexReg) : decodeIndex (encodeIndex ix) = some ix := by
  rcases ix with _ | i
  · rfl
  · cases i <;> rfl

/-- An accepted index byte is the byte of the selector read. -/
theorem encodeIndex_of_decodeIndex {b : Byte} {ix : Option IndexReg} (h : decodeIndex b = some ix) :
    encodeIndex ix = b := by
  have hall : ∀ b : Byte, (decodeIndex b).all (fun ix => decide (encodeIndex ix = b)) = true := by decide
  have hb := hall b
  rwa [h, Option.all_some, decide_eq_true_eq] at hb

theorem decodeIndex_eq_none_iff (b : Byte) : decodeIndex b = none ↔ 6 < b.toNat := by
  revert b; decide

theorem FieldSpec.toNat_toByte (f : FieldSpec) : f.toByte.toNat = 8 * f.l.val + f.r.val := by
  have hl := f.l.isLt; have hr := f.r.isLt
  simp only [FieldSpec.toByte, FieldSpec.code, BitVec.toNat_ofNat]; omega

theorem decodeField_toByte {f : FieldSpec} (h : f.legal = true) : decodeField f.toByte = some f := by
  rw [FieldSpec.legal_iff] at h
  have hl := f.l.isLt; have hr := f.r.isLt
  have hb := f.toNat_toByte
  have hd : f.toByte.toNat / 8 = f.l.val := by omega
  have hm : f.toByte.toNat % 8 = f.r.val := by omega
  unfold decodeField
  rw [dif_pos ⟨by omega, by omega⟩]
  congr 2 <;> exact Fin.ext (by assumption)

/-- An accepted F byte is the byte of the field read, and the field is legal (R105). -/
theorem toByte_of_decodeField {b : Byte} {f : FieldSpec} (h : decodeField b = some f) :
    f.legal = true ∧ f.toByte = b := by
  unfold decodeField at h
  split at h
  · rename_i hb
    have hlt := b.isLt
    cases h
    refine ⟨by rw [FieldSpec.legal_iff]; exact hb.1, BitVec.eq_of_toNat_eq ?_⟩
    rw [FieldSpec.toNat_toByte]
    show 8 * (b.toNat / 8) + b.toNat % 8 = b.toNat
    omega
  · cases h

theorem decodeField_eq_none_iff (b : Byte) :
    decodeField b = none ↔ ¬ (b.toNat / 8 ≤ b.toNat % 8 ∧ b.toNat % 8 ≤ 5) := by
  unfold decodeField
  split <;> simp_all

/-- A field-spec opcode accepts the byte of a legal field. -/
theorem withFieldSpec_toByte {f : FieldSpec} (h : f.legal = true) (k : FieldSpec → Instr) :
    withFieldSpec f.toByte k = .ok (k f) := by
  simp [withFieldSpec, decodeField_toByte h]

/-- What a field-spec opcode accepts: the byte of a legal field. -/
theorem withFieldSpec_ok {b : Byte} {k : FieldSpec → Instr} {i : Instr} (h : withFieldSpec b k = .ok i) :
    ∃ f : FieldSpec, f.legal = true ∧ f.toByte = b ∧ i = k f := by
  unfold withFieldSpec at h
  split at h
  · rename_i f hf
    cases h
    exact ⟨f, (toByte_of_decodeField hf).1, (toByte_of_decodeField hf).2, rfl⟩
  · cases h

/-- A field-spec opcode rejects exactly the bytes of no legal field. -/
theorem withFieldSpec_reject {b : Byte} (k : FieldSpec → Instr) (h : ¬ (b.toNat / 8 ≤ b.toNat % 8 ∧ b.toNat % 8 ≤ 5)) :
    withFieldSpec b k = .reject (.invalidFieldSpec b.toNat) := by
  simp [withFieldSpec, (decodeField_eq_none_iff b).2 h]

/-- What a selector opcode accepts: a number within its list. -/
theorem selectBy_ok {b : Byte} {l : List Instr} {i : Instr} (h : selectBy b l = .ok i) :
    l[b.toNat]? = some i := by
  unfold selectBy at h
  split at h
  · cases h; assumption
  · cases h

theorem selectBy_reject {b : Byte} {l : List Instr} (h : l.length ≤ b.toNat) :
    selectBy b l = .reject (.invalidFieldSpec b.toNat) := by
  simp [selectBy, List.getElem?_eq_none h]

/-- What holds of every listed instruction with its number holds of the accepted one with its byte. -/
theorem selectBy_ind {P : Byte → Instr → Prop} {b : Byte} {l : List Instr} {i : Instr} (h : selectBy b l = .ok i)
    (hall : ∀ p ∈ l.zipIdx, P (.ofNat 6 p.2) p.1) : P b i := by
  have hb : BitVec.ofNat 6 b.toNat = b := by simp
  have hm : (i, b.toNat) ∈ l.zipIdx := List.mem_zipIdx_iff_getElem?.2 (selectBy_ok h)
  have := hall _ hm
  rwa [hb] at this

theorem decodeAddrMag_split (v : BitVec 12) :
    decodeAddrMag (.ofNat 6 (v.toNat / 64)) (.ofNat 6 v.toNat) = v := by
  have hv := v.isLt
  apply BitVec.eq_of_toNat_eq
  simp only [decodeAddrMag, BitVec.toNat_ofNat]; omega

theorem toNat_decodeAddrMag (b1 b2 : Byte) : (decodeAddrMag b1 b2).toNat = b1.toNat * 64 + b2.toNat := by
  have h1 := b1.isLt; have h2 := b2.isLt
  simp only [decodeAddrMag, BitVec.toNat_ofNat]; omega

/-- Decoding an assembled word is decoding its opcode and F byte, with its address part read back. -/
theorem decode_assemble (m : Addr) (b c : Byte) : decode (assemble m b c) = decodeOpcode m b c.toNat := by
  simp only [decode, assemble, decodeIndex_encodeIndex, decodeAddrMag_split]

/-- A word whose index byte is accepted is the assembly of its parts. -/
theorem assemble_of_decodeIndex {w : Word} {ix : Option IndexReg} (h : decodeIndex w.b3 = some ix) :
    assemble ⟨w.sign, decodeAddrMag w.b1 w.b2, ix⟩ w.b4 w.b5 = w := by
  have h1 := w.b1.isLt; have h2 := w.b2.isLt
  rcases w with ⟨s, b1, b2, b3, b4, b5⟩
  simp only [assemble, toNat_decodeAddrMag, encodeIndex_of_decodeIndex h, Word.mk.injEq, true_and, and_true]
  refine ⟨?_, ?_⟩ <;> apply BitVec.eq_of_toNat_eq <;> rw [BitVec.toNat_ofNat] <;> simp only at h1 h2 <;> omega

end Sys2Proof
end

