-- ==== Sys2Proof/Laws/Memory.lean ====
section
/-! SUPPORT. Laws of the memory: a write is read back, leaves every other address alone, and keeps the canonical form. -/

namespace Sys2Proof.Machine

/-- Raising the lower bound the form is checked from is lowering what it asks. -/
theorem Memory.wfFrom_mono {m : Memory} {lo lo' : Nat} (h : Memory.wfFrom lo m = true) (hle : lo' ≤ lo) :
    Memory.wfFrom lo' m = true := by
  cases m with
  | nil => rfl
  | cons c rest =>
    simp only [Memory.wfFrom, Bool.and_eq_true, decide_eq_true_eq] at h ⊢
    exact ⟨⟨⟨by omega, h.1.1.2⟩, h.1.2⟩, h.2⟩

/-- An address below every listed one reads as +0. -/
theorem Memory.read_below {m : Memory} {lo a : Nat} (h : Memory.wfFrom lo m = true) (ha : a < lo) :
    m.read a = .zero := by
  induction m generalizing lo with
  | nil => rfl
  | cons c rest ih =>
    simp only [Memory.wfFrom, Bool.and_eq_true, decide_eq_true_eq] at h
    have hne : a ≠ c.1 := by omega
    simp only [Memory.read, hne, if_false]
    exact ih h.2 (by omega)

/-- A canonical memory lists nothing at 4000 or above. -/
theorem Memory.read_above {m : Memory} {lo a : Nat} (h : Memory.wfFrom lo m = true) (ha : Config.memSize ≤ a) :
    m.read a = .zero := by
  induction m generalizing lo with
  | nil => rfl
  | cons c rest ih =>
    simp only [Memory.wfFrom, Bool.and_eq_true, decide_eq_true_eq] at h
    have hne : a ≠ c.1 := by omega
    simp only [Memory.read, hne, if_false]
    exact ih h.2

theorem Memory.read_writeFrom_same {m : Memory} {lo a : Nat} {w : Word} (h : Memory.wfFrom lo m = true) :
    (m.write a w).read a = w := by
  induction m generalizing lo with
  | nil => simp only [Memory.write]; split <;> simp_all [Memory.read]
  | cons c rest ih =>
    have hw := h
    simp only [Memory.wfFrom, Bool.and_eq_true, decide_eq_true_eq] at h
    simp only [Memory.write]
    split
    · split
      · rename_i hlt hz
        rw [hz, Memory.read, if_neg (by omega)]
        exact Memory.read_below h.2 (by omega)
      · simp [Memory.read]
    · split
      · rename_i heq
        split
        · rename_i hz; rw [hz]; exact Memory.read_below h.2 (by omega)
        · simp [Memory.read]
      · rename_i hne
        simp only [Memory.read, hne, if_false]
        exact ih h.2

theorem Memory.read_writeFrom_ne {m : Memory} {lo a b : Nat} {w : Word} (h : Memory.wfFrom lo m = true) (hab : b ≠ a) :
    (m.write a w).read b = m.read b := by
  induction m generalizing lo with
  | nil => simp only [Memory.write]; split <;> simp_all [Memory.read]
  | cons c rest ih =>
    simp only [Memory.wfFrom, Bool.and_eq_true, decide_eq_true_eq] at h
    simp only [Memory.write]
    split
    · split
      · rfl
      · simp [Memory.read, hab]
    · split
      · rename_i heq
        have hbc : b ≠ c.1 := by omega
        split <;> simp [Memory.read, hab, hbc]
      · simp only [Memory.read]
        split
        · rfl
        · exact ih h.2

theorem Memory.write_wfFrom {m : Memory} {lo a : Nat} {w : Word} (h : Memory.wfFrom lo m = true) (hlo : lo ≤ a)
    (ha : a < Config.memSize) : Memory.wfFrom lo (m.write a w) = true := by
  induction m generalizing lo with
  | nil =>
    simp only [Memory.write]
    split
    · rfl
    · simp_all [Memory.wfFrom]
  | cons c rest ih =>
    have hw := h
    simp only [Memory.wfFrom, Bool.and_eq_true, decide_eq_true_eq] at h
    simp only [Memory.write]
    split
    · split
      · exact hw
      · rename_i hlt hz
        simp only [Memory.wfFrom, Bool.and_eq_true, decide_eq_true_eq]
        exact ⟨⟨⟨hlo, ha⟩, hz⟩, ⟨⟨by omega, h.1.1.2⟩, h.1.2⟩, h.2⟩
    · split
      · split
        · exact Memory.wfFrom_mono h.2 (by omega)
        · rename_i heq hz
          simp only [Memory.wfFrom, Bool.and_eq_true, decide_eq_true_eq]
          exact ⟨⟨⟨hlo, ha⟩, hz⟩, by rw [heq]; exact h.2⟩
      · simp only [Memory.wfFrom, Bool.and_eq_true, decide_eq_true_eq]
        exact ⟨h.1, ih h.2 (by omega)⟩

/-- A word written is read back. -/
theorem Memory.read_write_same {m : Memory} (h : m.wf = true) (a : Nat) (w : Word) : (m.write a w).read a = w :=
  Memory.read_writeFrom_same h

/-- A write leaves every other address alone. -/
theorem Memory.read_write_ne {m : Memory} (h : m.wf = true) {a b : Nat} (w : Word) (hab : b ≠ a) :
    (m.write a w).read b = m.read b :=
  Memory.read_writeFrom_ne h hab

/-- A write at an address of memory keeps the canonical form. -/
theorem Memory.write_wf {m : Memory} (h : m.wf = true) {a : Nat} (w : Word) (ha : a < Config.memSize) :
    (m.write a w).wf = true :=
  Memory.write_wfFrom h (Nat.zero_le _) ha

@[simp] theorem Memory.wf_nil : Memory.wf [] = true := (rfl)

theorem Memory.length_readRun (m : Memory) (a n : Nat) : (m.readRun a n).length = n := by
  induction n generalizing a with
  | zero => rfl
  | succ n ih => simp [Memory.readRun, ih]

/-- Word k of a run is the word at the k-th address. -/
theorem Memory.getElem?_readRun (m : Memory) (a n k : Nat) (hk : k < n) :
    (m.readRun a n)[k]? = some (m.read (a + k)) := by
  induction n generalizing a k with
  | zero => omega
  | succ n ih =>
    cases k with
    | zero => simp [Memory.readRun]
    | succ k =>
      simp only [Memory.readRun, List.getElem?_cons_succ]
      rw [ih (a + 1) k (by omega)]
      congr 2; omega

/-- Writing a run inside memory keeps the canonical form. -/
theorem Memory.writeRun_wf {m : Memory} (h : m.wf = true) (a : Nat) (ws : List Word)
    (ha : a + ws.length ≤ Config.memSize) : (m.writeRun a ws).wf = true := by
  induction ws generalizing m a with
  | nil => exact h
  | cons w ws ih =>
    simp only [List.length_cons] at ha
    exact ih (Memory.write_wf h w (by omega)) (a + 1) (by omega)

/-- A run written leaves every address outside it alone. -/
theorem Memory.read_writeRun_ne {m : Memory} (h : m.wf = true) (a b : Nat) (ws : List Word)
    (ha : a + ws.length ≤ Config.memSize) (hb : b < a ∨ a + ws.length ≤ b) :
    (m.writeRun a ws).read b = m.read b := by
  induction ws generalizing m a with
  | nil => rfl
  | cons w ws ih =>
    simp only [List.length_cons] at ha hb
    simp only [Memory.writeRun]
    rw [ih (Memory.write_wf h w (by omega)) (a + 1) (by omega) (by omega)]
    exact Memory.read_write_ne h w (by omega)

/-- A run written is read back word by word. -/
theorem Memory.read_writeRun_same {m : Memory} (h : m.wf = true) (a k : Nat) (ws : List Word)
    (ha : a + ws.length ≤ Config.memSize) (w : Word) (hk : ws[k]? = some w) :
    (m.writeRun a ws).read (a + k) = w := by
  induction ws generalizing m a k with
  | nil => simp at hk
  | cons v ws ih =>
    simp only [List.length_cons] at ha
    have hv := Memory.write_wf h v (a := a) (by omega)
    cases k with
    | zero =>
      simp only [List.getElem?_cons_zero, Option.some.injEq] at hk
      simp only [Memory.writeRun, Nat.add_zero]
      rw [Memory.read_writeRun_ne hv (a + 1) a ws (by omega) (by omega), hk]
      exact Memory.read_write_same h a w
    | succ k =>
      simp only [List.getElem?_cons_succ] at hk
      simp only [Memory.writeRun]
      rw [show a + (k + 1) = a + 1 + k by omega]
      exact ih hv (a + 1) k (by omega) hk

end Sys2Proof.Machine
end

