-- ==== Sys2Proof/Laws/State.lean ====
section
/-! SUPPORT. Each update of the state, read back field by field. The proofs are written `(rfl)`, so that simp applies a
lemma as a rewriting step and leaves the kernel no states to compare. -/

namespace Sys2Proof.Machine

/-! ## A and X -/

@[simp] theorem State.setFull_a_a : ∀ (s : State) (v : Word), (s.setFull .a v).a = v := fun _ _ => (rfl)
@[simp] theorem State.setFull_x_a : ∀ (s : State) (v : Word), (s.setFull .x v).a = s.a := fun _ _ => (rfl)
@[simp] theorem State.setFull_x_x : ∀ (s : State) (v : Word), (s.setFull .x v).x = v := fun _ _ => (rfl)
@[simp] theorem State.setFull_a_x : ∀ (s : State) (v : Word), (s.setFull .a v).x = s.x := fun _ _ => (rfl)
@[simp] theorem State.setFull_i1 (s : State) (r : FullReg) (v : Word) : (s.setFull r v).i1 = s.i1 := by
  cases r <;> rfl
@[simp] theorem State.setFull_i2 (s : State) (r : FullReg) (v : Word) : (s.setFull r v).i2 = s.i2 := by
  cases r <;> rfl
@[simp] theorem State.setFull_i3 (s : State) (r : FullReg) (v : Word) : (s.setFull r v).i3 = s.i3 := by
  cases r <;> rfl
@[simp] theorem State.setFull_i4 (s : State) (r : FullReg) (v : Word) : (s.setFull r v).i4 = s.i4 := by
  cases r <;> rfl
@[simp] theorem State.setFull_i5 (s : State) (r : FullReg) (v : Word) : (s.setFull r v).i5 = s.i5 := by
  cases r <;> rfl
@[simp] theorem State.setFull_i6 (s : State) (r : FullReg) (v : Word) : (s.setFull r v).i6 = s.i6 := by
  cases r <;> rfl
@[simp] theorem State.setFull_j (s : State) (r : FullReg) (v : Word) : (s.setFull r v).j = s.j := by
  cases r <;> rfl
@[simp] theorem State.setFull_pc (s : State) (r : FullReg) (v : Word) : (s.setFull r v).pc = s.pc := by
  cases r <;> rfl
@[simp] theorem State.setFull_ov (s : State) (r : FullReg) (v : Word) : (s.setFull r v).ov = s.ov := by
  cases r <;> rfl
@[simp] theorem State.setFull_ci (s : State) (r : FullReg) (v : Word) : (s.setFull r v).ci = s.ci := by
  cases r <;> rfl
@[simp] theorem State.setFull_halt (s : State) (r : FullReg) (v : Word) : (s.setFull r v).halt = s.halt := by
  cases r <;> rfl
@[simp] theorem State.setFull_mem (s : State) (r : FullReg) (v : Word) : (s.setFull r v).mem = s.mem := by
  cases r <;> rfl
@[simp] theorem State.setFull_full (s : State) (r q : FullReg) (v : Word) :
    (s.setFull r v).full q = if q = r then v else s.full q := by cases r <;> cases q <;> rfl
@[simp] theorem State.setFull_index (s : State) (r : FullReg) (v : Word) (i : IndexReg) :
    (s.setFull r v).index i = s.index i := by cases r <;> cases i <;> rfl

/-! ## I1 to I6 -/

@[simp] theorem State.setIndex_a (s : State) (i : IndexReg) (h : Half) : (s.setIndex i h).a = s.a := by
  cases i <;> rfl
@[simp] theorem State.setIndex_x (s : State) (i : IndexReg) (h : Half) : (s.setIndex i h).x = s.x := by
  cases i <;> rfl
@[simp] theorem State.setIndex_i1 (s : State) (i : IndexReg) (h : Half) :
    (s.setIndex i h).i1 = if i = .i1 then h else s.i1 := by cases i <;> rfl
@[simp] theorem State.setIndex_i2 (s : State) (i : IndexReg) (h : Half) :
    (s.setIndex i h).i2 = if i = .i2 then h else s.i2 := by cases i <;> rfl
@[simp] theorem State.setIndex_i3 (s : State) (i : IndexReg) (h : Half) :
    (s.setIndex i h).i3 = if i = .i3 then h else s.i3 := by cases i <;> rfl
@[simp] theorem State.setIndex_i4 (s : State) (i : IndexReg) (h : Half) :
    (s.setIndex i h).i4 = if i = .i4 then h else s.i4 := by cases i <;> rfl
@[simp] theorem State.setIndex_i5 (s : State) (i : IndexReg) (h : Half) :
    (s.setIndex i h).i5 = if i = .i5 then h else s.i5 := by cases i <;> rfl
@[simp] theorem State.setIndex_i6 (s : State) (i : IndexReg) (h : Half) :
    (s.setIndex i h).i6 = if i = .i6 then h else s.i6 := by cases i <;> rfl
@[simp] theorem State.setIndex_j (s : State) (i : IndexReg) (h : Half) : (s.setIndex i h).j = s.j := by
  cases i <;> rfl
@[simp] theorem State.setIndex_pc (s : State) (i : IndexReg) (h : Half) : (s.setIndex i h).pc = s.pc := by
  cases i <;> rfl
@[simp] theorem State.setIndex_ov (s : State) (i : IndexReg) (h : Half) : (s.setIndex i h).ov = s.ov := by
  cases i <;> rfl
@[simp] theorem State.setIndex_ci (s : State) (i : IndexReg) (h : Half) : (s.setIndex i h).ci = s.ci := by
  cases i <;> rfl
@[simp] theorem State.setIndex_halt (s : State) (i : IndexReg) (h : Half) : (s.setIndex i h).halt = s.halt := by
  cases i <;> rfl
@[simp] theorem State.setIndex_mem (s : State) (i : IndexReg) (h : Half) : (s.setIndex i h).mem = s.mem := by
  cases i <;> rfl
@[simp] theorem State.setIndex_index (s : State) (i k : IndexReg) (h : Half) :
    (s.setIndex i h).index k = if k = i then h else s.index k := by cases i <;> cases k <;> rfl
@[simp] theorem State.setIndex_full (s : State) (i : IndexReg) (h : Half) (r : FullReg) :
    (s.setIndex i h).full r = s.full r := by cases i <;> cases r <;> rfl

/-! ## setJ -/

@[simp] theorem State.setJ_a (s : State) (h : Half) : (s.setJ h).a = s.a := (rfl)
@[simp] theorem State.setJ_x (s : State) (h : Half) : (s.setJ h).x = s.x := (rfl)
@[simp] theorem State.setJ_i1 (s : State) (h : Half) : (s.setJ h).i1 = s.i1 := (rfl)
@[simp] theorem State.setJ_i2 (s : State) (h : Half) : (s.setJ h).i2 = s.i2 := (rfl)
@[simp] theorem State.setJ_i3 (s : State) (h : Half) : (s.setJ h).i3 = s.i3 := (rfl)
@[simp] theorem State.setJ_i4 (s : State) (h : Half) : (s.setJ h).i4 = s.i4 := (rfl)
@[simp] theorem State.setJ_i5 (s : State) (h : Half) : (s.setJ h).i5 = s.i5 := (rfl)
@[simp] theorem State.setJ_i6 (s : State) (h : Half) : (s.setJ h).i6 = s.i6 := (rfl)
@[simp] theorem State.setJ_j (s : State) (h : Half) : (s.setJ h).j = ⟨.plus, h.h1, h.h2⟩ := (rfl)
@[simp] theorem State.setJ_pc (s : State) (h : Half) : (s.setJ h).pc = s.pc := (rfl)
@[simp] theorem State.setJ_ov (s : State) (h : Half) : (s.setJ h).ov = s.ov := (rfl)
@[simp] theorem State.setJ_ci (s : State) (h : Half) : (s.setJ h).ci = s.ci := (rfl)
@[simp] theorem State.setJ_halt (s : State) (h : Half) : (s.setJ h).halt = s.halt := (rfl)
@[simp] theorem State.setJ_mem (s : State) (h : Half) : (s.setJ h).mem = s.mem := (rfl)
@[simp] theorem State.setJ_index (s : State) (h : Half) (i : IndexReg) : (s.setJ h).index i = s.index i := by
  cases i <;> rfl
@[simp] theorem State.setJ_full (s : State) (h : Half) (r : FullReg) : (s.setJ h).full r = s.full r := by
  cases r <;> rfl

/-! ## setMem -/

@[simp] theorem State.setMem_a (s : State) (m : Memory) : (s.setMem m).a = s.a := (rfl)
@[simp] theorem State.setMem_x (s : State) (m : Memory) : (s.setMem m).x = s.x := (rfl)
@[simp] theorem State.setMem_i1 (s : State) (m : Memory) : (s.setMem m).i1 = s.i1 := (rfl)
@[simp] theorem State.setMem_i2 (s : State) (m : Memory) : (s.setMem m).i2 = s.i2 := (rfl)
@[simp] theorem State.setMem_i3 (s : State) (m : Memory) : (s.setMem m).i3 = s.i3 := (rfl)
@[simp] theorem State.setMem_i4 (s : State) (m : Memory) : (s.setMem m).i4 = s.i4 := (rfl)
@[simp] theorem State.setMem_i5 (s : State) (m : Memory) : (s.setMem m).i5 = s.i5 := (rfl)
@[simp] theorem State.setMem_i6 (s : State) (m : Memory) : (s.setMem m).i6 = s.i6 := (rfl)
@[simp] theorem State.setMem_j (s : State) (m : Memory) : (s.setMem m).j = s.j := (rfl)
@[simp] theorem State.setMem_pc (s : State) (m : Memory) : (s.setMem m).pc = s.pc := (rfl)
@[simp] theorem State.setMem_ov (s : State) (m : Memory) : (s.setMem m).ov = s.ov := (rfl)
@[simp] theorem State.setMem_ci (s : State) (m : Memory) : (s.setMem m).ci = s.ci := (rfl)
@[simp] theorem State.setMem_halt (s : State) (m : Memory) : (s.setMem m).halt = s.halt := (rfl)
@[simp] theorem State.setMem_mem (s : State) (m : Memory) : (s.setMem m).mem = m := (rfl)
@[simp] theorem State.setMem_index (s : State) (m : Memory) (i : IndexReg) : (s.setMem m).index i = s.index i := by
  cases i <;> rfl
@[simp] theorem State.setMem_full (s : State) (m : Memory) (r : FullReg) : (s.setMem m).full r = s.full r := by
  cases r <;> rfl

/-! ## setOv -/

@[simp] theorem State.setOv_a (s : State) (b : Bool) : (s.setOv b).a = s.a := (rfl)
@[simp] theorem State.setOv_x (s : State) (b : Bool) : (s.setOv b).x = s.x := (rfl)
@[simp] theorem State.setOv_i1 (s : State) (b : Bool) : (s.setOv b).i1 = s.i1 := (rfl)
@[simp] theorem State.setOv_i2 (s : State) (b : Bool) : (s.setOv b).i2 = s.i2 := (rfl)
@[simp] theorem State.setOv_i3 (s : State) (b : Bool) : (s.setOv b).i3 = s.i3 := (rfl)
@[simp] theorem State.setOv_i4 (s : State) (b : Bool) : (s.setOv b).i4 = s.i4 := (rfl)
@[simp] theorem State.setOv_i5 (s : State) (b : Bool) : (s.setOv b).i5 = s.i5 := (rfl)
@[simp] theorem State.setOv_i6 (s : State) (b : Bool) : (s.setOv b).i6 = s.i6 := (rfl)
@[simp] theorem State.setOv_j (s : State) (b : Bool) : (s.setOv b).j = s.j := (rfl)
@[simp] theorem State.setOv_pc (s : State) (b : Bool) : (s.setOv b).pc = s.pc := (rfl)
@[simp] theorem State.setOv_ov (s : State) (b : Bool) : (s.setOv b).ov = b := (rfl)
@[simp] theorem State.setOv_ci (s : State) (b : Bool) : (s.setOv b).ci = s.ci := (rfl)
@[simp] theorem State.setOv_halt (s : State) (b : Bool) : (s.setOv b).halt = s.halt := (rfl)
@[simp] theorem State.setOv_mem (s : State) (b : Bool) : (s.setOv b).mem = s.mem := (rfl)
@[simp] theorem State.setOv_index (s : State) (b : Bool) (i : IndexReg) : (s.setOv b).index i = s.index i := by
  cases i <;> rfl
@[simp] theorem State.setOv_full (s : State) (b : Bool) (r : FullReg) : (s.setOv b).full r = s.full r := by
  cases r <;> rfl

/-! ## orOv -/

@[simp] theorem State.orOv_a (s : State) (b : Bool) : (s.orOv b).a = s.a := (rfl)
@[simp] theorem State.orOv_x (s : State) (b : Bool) : (s.orOv b).x = s.x := (rfl)
@[simp] theorem State.orOv_i1 (s : State) (b : Bool) : (s.orOv b).i1 = s.i1 := (rfl)
@[simp] theorem State.orOv_i2 (s : State) (b : Bool) : (s.orOv b).i2 = s.i2 := (rfl)
@[simp] theorem State.orOv_i3 (s : State) (b : Bool) : (s.orOv b).i3 = s.i3 := (rfl)
@[simp] theorem State.orOv_i4 (s : State) (b : Bool) : (s.orOv b).i4 = s.i4 := (rfl)
@[simp] theorem State.orOv_i5 (s : State) (b : Bool) : (s.orOv b).i5 = s.i5 := (rfl)
@[simp] theorem State.orOv_i6 (s : State) (b : Bool) : (s.orOv b).i6 = s.i6 := (rfl)
@[simp] theorem State.orOv_j (s : State) (b : Bool) : (s.orOv b).j = s.j := (rfl)
@[simp] theorem State.orOv_pc (s : State) (b : Bool) : (s.orOv b).pc = s.pc := (rfl)
@[simp] theorem State.orOv_ov (s : State) (b : Bool) : (s.orOv b).ov = (s.ov || b) := (rfl)
@[simp] theorem State.orOv_ci (s : State) (b : Bool) : (s.orOv b).ci = s.ci := (rfl)
@[simp] theorem State.orOv_halt (s : State) (b : Bool) : (s.orOv b).halt = s.halt := (rfl)
@[simp] theorem State.orOv_mem (s : State) (b : Bool) : (s.orOv b).mem = s.mem := (rfl)
@[simp] theorem State.orOv_index (s : State) (b : Bool) (i : IndexReg) : (s.orOv b).index i = s.index i := by
  cases i <;> rfl
@[simp] theorem State.orOv_full (s : State) (b : Bool) (r : FullReg) : (s.orOv b).full r = s.full r := by
  cases r <;> rfl

/-! ## setCi -/

@[simp] theorem State.setCi_a (s : State) (c : Indicator) : (s.setCi c).a = s.a := (rfl)
@[simp] theorem State.setCi_x (s : State) (c : Indicator) : (s.setCi c).x = s.x := (rfl)
@[simp] theorem State.setCi_i1 (s : State) (c : Indicator) : (s.setCi c).i1 = s.i1 := (rfl)
@[simp] theorem State.setCi_i2 (s : State) (c : Indicator) : (s.setCi c).i2 = s.i2 := (rfl)
@[simp] theorem State.setCi_i3 (s : State) (c : Indicator) : (s.setCi c).i3 = s.i3 := (rfl)
@[simp] theorem State.setCi_i4 (s : State) (c : Indicator) : (s.setCi c).i4 = s.i4 := (rfl)
@[simp] theorem State.setCi_i5 (s : State) (c : Indicator) : (s.setCi c).i5 = s.i5 := (rfl)
@[simp] theorem State.setCi_i6 (s : State) (c : Indicator) : (s.setCi c).i6 = s.i6 := (rfl)
@[simp] theorem State.setCi_j (s : State) (c : Indicator) : (s.setCi c).j = s.j := (rfl)
@[simp] theorem State.setCi_pc (s : State) (c : Indicator) : (s.setCi c).pc = s.pc := (rfl)
@[simp] theorem State.setCi_ov (s : State) (c : Indicator) : (s.setCi c).ov = s.ov := (rfl)
@[simp] theorem State.setCi_ci (s : State) (c : Indicator) : (s.setCi c).ci = c := (rfl)
@[simp] theorem State.setCi_halt (s : State) (c : Indicator) : (s.setCi c).halt = s.halt := (rfl)
@[simp] theorem State.setCi_mem (s : State) (c : Indicator) : (s.setCi c).mem = s.mem := (rfl)
@[simp] theorem State.setCi_index (s : State) (c : Indicator) (i : IndexReg) : (s.setCi c).index i = s.index i := by
  cases i <;> rfl
@[simp] theorem State.setCi_full (s : State) (c : Indicator) (r : FullReg) : (s.setCi c).full r = s.full r := by
  cases r <;> rfl

/-! ## setHalt -/

@[simp] theorem State.setHalt_a (s : State) : s.setHalt.a = s.a := (rfl)
@[simp] theorem State.setHalt_x (s : State) : s.setHalt.x = s.x := (rfl)
@[simp] theorem State.setHalt_i1 (s : State) : s.setHalt.i1 = s.i1 := (rfl)
@[simp] theorem State.setHalt_i2 (s : State) : s.setHalt.i2 = s.i2 := (rfl)
@[simp] theorem State.setHalt_i3 (s : State) : s.setHalt.i3 = s.i3 := (rfl)
@[simp] theorem State.setHalt_i4 (s : State) : s.setHalt.i4 = s.i4 := (rfl)
@[simp] theorem State.setHalt_i5 (s : State) : s.setHalt.i5 = s.i5 := (rfl)
@[simp] theorem State.setHalt_i6 (s : State) : s.setHalt.i6 = s.i6 := (rfl)
@[simp] theorem State.setHalt_j (s : State) : s.setHalt.j = s.j := (rfl)
@[simp] theorem State.setHalt_pc (s : State) : s.setHalt.pc = s.pc := (rfl)
@[simp] theorem State.setHalt_ov (s : State) : s.setHalt.ov = s.ov := (rfl)
@[simp] theorem State.setHalt_ci (s : State) : s.setHalt.ci = s.ci := (rfl)
@[simp] theorem State.setHalt_halt (s : State) : s.setHalt.halt = true := (rfl)
@[simp] theorem State.setHalt_mem (s : State) : s.setHalt.mem = s.mem := (rfl)
@[simp] theorem State.setHalt_index (s : State) (i : IndexReg) : s.setHalt.index i = s.index i := by
  cases i <;> rfl
@[simp] theorem State.setHalt_full (s : State) (r : FullReg) : s.setHalt.full r = s.full r := by
  cases r <;> rfl

/-! ## setPc -/

@[simp] theorem State.setPc_a (s : State) (n : Nat) : (s.setPc n).a = s.a := (rfl)
@[simp] theorem State.setPc_x (s : State) (n : Nat) : (s.setPc n).x = s.x := (rfl)
@[simp] theorem State.setPc_i1 (s : State) (n : Nat) : (s.setPc n).i1 = s.i1 := (rfl)
@[simp] theorem State.setPc_i2 (s : State) (n : Nat) : (s.setPc n).i2 = s.i2 := (rfl)
@[simp] theorem State.setPc_i3 (s : State) (n : Nat) : (s.setPc n).i3 = s.i3 := (rfl)
@[simp] theorem State.setPc_i4 (s : State) (n : Nat) : (s.setPc n).i4 = s.i4 := (rfl)
@[simp] theorem State.setPc_i5 (s : State) (n : Nat) : (s.setPc n).i5 = s.i5 := (rfl)
@[simp] theorem State.setPc_i6 (s : State) (n : Nat) : (s.setPc n).i6 = s.i6 := (rfl)
@[simp] theorem State.setPc_j (s : State) (n : Nat) : (s.setPc n).j = s.j := (rfl)
@[simp] theorem State.setPc_pc (s : State) (n : Nat) : (s.setPc n).pc = .ofNat 12 n := (rfl)
@[simp] theorem State.setPc_ov (s : State) (n : Nat) : (s.setPc n).ov = s.ov := (rfl)
@[simp] theorem State.setPc_ci (s : State) (n : Nat) : (s.setPc n).ci = s.ci := (rfl)
@[simp] theorem State.setPc_halt (s : State) (n : Nat) : (s.setPc n).halt = s.halt := (rfl)
@[simp] theorem State.setPc_mem (s : State) (n : Nat) : (s.setPc n).mem = s.mem := (rfl)
@[simp] theorem State.setPc_index (s : State) (n : Nat) (i : IndexReg) : (s.setPc n).index i = s.index i := by
  cases i <;> rfl
@[simp] theorem State.setPc_full (s : State) (n : Nat) (r : FullReg) : (s.setPc n).full r = s.full r := by
  cases r <;> rfl

/-! ## advance -/

@[simp] theorem State.advance_a (s : State) : s.advance.a = s.a := (rfl)
@[simp] theorem State.advance_x (s : State) : s.advance.x = s.x := (rfl)
@[simp] theorem State.advance_i1 (s : State) : s.advance.i1 = s.i1 := (rfl)
@[simp] theorem State.advance_i2 (s : State) : s.advance.i2 = s.i2 := (rfl)
@[simp] theorem State.advance_i3 (s : State) : s.advance.i3 = s.i3 := (rfl)
@[simp] theorem State.advance_i4 (s : State) : s.advance.i4 = s.i4 := (rfl)
@[simp] theorem State.advance_i5 (s : State) : s.advance.i5 = s.i5 := (rfl)
@[simp] theorem State.advance_i6 (s : State) : s.advance.i6 = s.i6 := (rfl)
@[simp] theorem State.advance_j (s : State) : s.advance.j = s.j := (rfl)
@[simp] theorem State.advance_pc (s : State) : s.advance.pc = .ofNat 12 s.nextAddr := (rfl)
@[simp] theorem State.advance_ov (s : State) : s.advance.ov = s.ov := (rfl)
@[simp] theorem State.advance_ci (s : State) : s.advance.ci = s.ci := (rfl)
@[simp] theorem State.advance_halt (s : State) : s.advance.halt = s.halt := (rfl)
@[simp] theorem State.advance_mem (s : State) : s.advance.mem = s.mem := (rfl)
@[simp] theorem State.advance_index (s : State) (i : IndexReg) : s.advance.index i = s.index i := by
  cases i <;> rfl
@[simp] theorem State.advance_full (s : State) (r : FullReg) : s.advance.full r = s.full r := by
  cases r <;> rfl

/-! ## nextAddr -/

theorem State.nextAddr_eq (s : State) : s.nextAddr = s.pc.toNat + 1 := (rfl)
@[simp] theorem State.nextAddr_setFull (s : State) (r : FullReg) (v : Word) : (s.setFull r v).nextAddr = s.nextAddr := by
  cases r <;> rfl
@[simp] theorem State.nextAddr_setIndex (s : State) (i : IndexReg) (h : Half) : (s.setIndex i h).nextAddr = s.nextAddr := by
  cases i <;> rfl
@[simp] theorem State.nextAddr_setMem (s : State) (m : Memory) : (s.setMem m).nextAddr = s.nextAddr := (rfl)
@[simp] theorem State.nextAddr_setOv (s : State) (b : Bool) : (s.setOv b).nextAddr = s.nextAddr := (rfl)
@[simp] theorem State.nextAddr_orOv (s : State) (b : Bool) : (s.orOv b).nextAddr = s.nextAddr := (rfl)
@[simp] theorem State.nextAddr_setCi (s : State) (c : Indicator) : (s.setCi c).nextAddr = s.nextAddr := (rfl)
@[simp] theorem State.nextAddr_setHalt (s : State) : s.setHalt.nextAddr = s.nextAddr := (rfl)

end Sys2Proof.Machine
end

