-- ==== Sys2Proof/Laws/Ops.lean ====
section
/-! SUPPORT. What each shared operation can do: where it goes on, where it stops, and what a next state shows. -/

namespace Sys2Proof.Machine

/-! ## Checks -/

theorem withAddress_ok {a : Int} (h0 : 0 ≤ a) (h1 : a < Config.memSize) (k : Nat → Result) :
    withAddress a k = k a.toNat := if_pos ⟨h0, h1⟩

theorem withAddress_bad {a : Int} (h : ¬ (0 ≤ a ∧ a < Config.memSize)) (k : Nat → Result) :
    withAddress a k = .fault (.addressOutOfRange a) := if_neg h

/-- A check passed: the address is in memory and the rest answered. -/
theorem withAddress_next {a : Int} {k : Nat → Result} {t : State} (h : withAddress a k = .next t) :
    0 ≤ a ∧ a < Config.memSize ∧ k a.toNat = .next t := by
  unfold withAddress at h
  split at h
  · rename_i hc; exact ⟨hc.1, hc.2, h⟩
  · cases h

theorem withCell_ok {m : Addr} {f : FieldSpec} {s : State} (hf : f.legal = true) (h0 : 0 ≤ (ea m s).val)
    (h1 : (ea m s).val < Config.memSize) (k : Nat → Word → Result) :
    withCell m f s k = k (ea m s).val.toNat (s.mem.read (ea m s).val.toNat) := by
  rw [withCell, if_pos hf, withAddress_ok h0 h1]

theorem withCell_bad {m : Addr} {f : FieldSpec} {s : State} (hf : f.legal = true)
    (h : ¬ (0 ≤ (ea m s).val ∧ (ea m s).val < Config.memSize)) (k : Nat → Word → Result) :
    withCell m f s k = .fault (.addressOutOfRange (ea m s).val) := by
  rw [withCell, if_pos hf, withAddress_bad h]

theorem withCell_illegal {m : Addr} {f : FieldSpec} {s : State} (hf : ¬ f.legal = true) (k : Nat → Word → Result) :
    withCell m f s k = .fault (.invalidFieldSpec f.code) := if_neg hf

theorem withCell_next {m : Addr} {f : FieldSpec} {s t : State} {k : Nat → Word → Result}
    (h : withCell m f s k = .next t) :
    f.legal = true ∧ 0 ≤ (ea m s).val ∧ (ea m s).val < Config.memSize ∧
      k (ea m s).val.toNat (s.mem.read (ea m s).val.toNat) = .next t := by
  unfold withCell at h
  split at h
  · rename_i hf; exact ⟨hf, withAddress_next h⟩
  · cases h

theorem withHalf_ok {v : Word} (h : v.mag < 4096) (k : Half → Result) : withHalf v k = k v.half :=
  if_pos ((Word.fitsHalf_iff v).2 h)

theorem withHalf_bad {v : Word} (h : 4096 ≤ v.mag) (k : Half → Result) :
    withHalf v k = .fault (.indexValueOutOfRange v.val) := by
  refine if_neg fun hc => ?_
  have := (Word.fitsHalf_iff v).1 hc
  omega

theorem withHalf_next {v : Word} {k : Half → Result} {t : State} (h : withHalf v k = .next t) :
    v.mag < 4096 ∧ k v.half = .next t := by
  unfold withHalf at h
  split at h
  · rename_i hf; exact ⟨(Word.fitsHalf_iff v).1 hf, h⟩
  · cases h

theorem withShiftCount_ok {m : Addr} {s : State} (h : 0 ≤ (ea m s).val) (n : Nat) (k : Nat → Result) :
    withShiftCount m s n k = k ((ea m s).val.toNat % n) := if_neg (by omega)

theorem withShiftCount_bad {m : Addr} {s : State} (h : (ea m s).val < 0) (n : Nat) (k : Nat → Result) :
    withShiftCount m s n k = .fault (.invalidShiftCount (ea m s).val) := if_pos h

theorem withShiftCount_next {m : Addr} {s t : State} {n : Nat} {k : Nat → Result}
    (h : withShiftCount m s n k = .next t) : 0 ≤ (ea m s).val ∧ k ((ea m s).val.toNat % n) = .next t := by
  unfold withShiftCount at h
  split at h
  · cases h
  · exact ⟨by omega, h⟩

theorem withRun_ok {a : Int} {n : Nat} (h0 : 0 ≤ a) (hn : 0 < n) (h1 : a + n ≤ Config.memSize) (k : Nat → Result) :
    withRun a n k = k a.toNat := by
  rw [withRun, withAddress_ok h0 (by omega), if_neg (by omega)]

theorem withRun_next {a : Int} {n : Nat} {k : Nat → Result} {t : State} (h : withRun a n k = .next t) :
    0 ≤ a ∧ a < Config.memSize ∧ a + n ≤ Config.memSize ∧ k a.toNat = .next t := by
  obtain ⟨h0, h1, h2⟩ := withAddress_next h
  split at h2
  · cases h2
  · exact ⟨h0, h1, by omega, h2⟩

/-- The only next state of `finish`. -/
theorem finish_next {s t : State} (h : finish s = .next t) : t = s.advance := by
  cases h; rfl

/-! ## Operands -/

theorem ea_val (m : Addr) (s : State) : (ea m s).val = m.sign.apply m.mag.toNat + indexVal s m.index := (rfl)

theorem ea_sign (m : Addr) (s : State) : (ea m s).sign = Sign.ofInt (ea m s).val m.sign := (rfl)

theorem Half.val_bounds (h : Half) : -4095 ≤ h.val ∧ h.val ≤ 4095 := by
  have := h.mag_lt
  rcases h with ⟨s, a, b⟩
  cases s <;> simp only [Half.val, Sign.apply] <;> omega

theorem indexVal_bounds (s : State) (ix : Option IndexReg) : -4095 ≤ indexVal s ix ∧ indexVal s ix ≤ 4095 := by
  rcases ix with _ | i
  · simp [indexVal]
  · exact Half.val_bounds _

/-- The effective address lies in -8190..8190 (R110). -/
theorem ea_bounds (m : Addr) (s : State) : -8190 ≤ (ea m s).val ∧ (ea m s).val ≤ 8190 := by
  have h := indexVal_bounds s m.index
  have hm := m.mag.isLt
  rw [ea_val]
  cases m.sign <;> simp only [Sign.apply] <;> omega

theorem ea_word_sign (m : Addr) (s : State) : (ea m s).word.sign = Sign.ofInt (ea m s).val m.sign := (rfl)

theorem ea_word_mag (m : Addr) (s : State) : (ea m s).word.mag = (ea m s).val.natAbs := by
  have := ea_bounds m s
  exact Word.mag_ofMag_of_lt _ (show (ea m s).val.natAbs < 2 ^ 30 by omega)

theorem ea_word_val (m : Addr) (s : State) : (ea m s).word.val = (ea m s).val := by
  rw [Word.val, ea_word_mag, ea_word_sign, Sign.ofInt_apply]

/-! ## The signed add -/

theorem signedAdd_small {rs : Sign} {rv d : Int} {w : Nat} (h : (rv + d).natAbs < 2 ^ w) :
    signedAdd rs rv d w = ⟨Sign.ofInt (rv + d) rs, (rv + d).natAbs, false⟩ := by
  have hn : ¬ 2 ^ w ≤ (rv + d).natAbs := by omega
  simp only [signedAdd, hn, if_false]
  split
  · rename_i h0; simp [h0]
  · rfl

theorem signedAdd_large {rs : Sign} {rv d : Int} {w : Nat} (h : 2 ^ w ≤ (rv + d).natAbs) :
    signedAdd rs rv d w = ⟨Sign.ofInt (rv + d) rs, (rv + d).natAbs % 2 ^ w, true⟩ := if_pos h

/-- The magnitude a signed add gives always fits its register. -/
theorem signedAdd_mag_lt (rs : Sign) (rv d : Int) (w : Nat) : (signedAdd rs rv d w).mag < 2 ^ w := by
  have hp : 0 < 2 ^ w := Nat.pow_pos (by decide)
  by_cases h : (rv + d).natAbs < 2 ^ w
  · rw [signedAdd_small h]; exact h
  · rw [signedAdd_large (by omega)]; exact Nat.mod_lt _ hp

end Sys2Proof.Machine
end

