-- ==== Sys2Proof/Laws/Families.lean ====
section
/-! SUPPORT. What each operation that a family of instructions shares can do: the one next state it has, and the checks
that had to pass. -/

namespace Sys2Proof.Machine

/-- The program counter after an instruction that goes on is the incremented one. -/
theorem advance_eq (s : State) : s.advance = { s with pc := s.pc + 1 } := by
  have h : BitVec.ofNat 12 (s.pc.toNat + 1) = s.pc + 1 := by
    apply BitVec.eq_of_toNat_eq
    simp [BitVec.toNat_add]
  rw [State.advance, State.setPc, State.nextAddr, h]

theorem finish_eq (s : State) : finish s = .next { s with pc := s.pc + 1 } := by rw [finish, advance_eq]

variable {m : Addr} {f : FieldSpec} {s t : State}

/-- The quotient fits in 30 bits exactly when A's magnitude is below the divisor's (R263). -/
theorem quotient_lt_iff {a x d : Nat} (hx : x < 2 ^ 30) (hd : 0 < d) :
    (a * 2 ^ 30 + x) / d < 2 ^ 30 ↔ a < d := by
  rw [Nat.div_lt_iff_lt_mul hd]
  constructor
  · intro h; by_contra hc; have := Nat.mul_le_mul_right (2 ^ 30) (Nat.le_of_not_lt hc); omega
  · intro h; have := Nat.mul_le_mul_right (2 ^ 30) (Nat.succ_le_of_lt h); rw [Nat.succ_mul] at this; omega

theorem divide_fail {v : Word} (h : v.mag = 0 ∨ v.mag ≤ s.a.mag) : divide v s = finish (s.setOv true) := if_pos h

theorem divide_ok {v : Word} (h1 : s.a.mag < v.mag) :
    divide v s = finish ((s.setFull .a (Word.ofMag (s.a.sign.xor v.sign)
        ((s.a.mag * 2 ^ 30 + s.x.mag) / v.mag))).setFull .x
      (Word.ofMag s.a.sign ((s.a.mag * 2 ^ 30 + s.x.mag) % v.mag))) :=
  if_neg (by omega)

theorem jumpIf_true {k : State → State} :
    jumpIf true k m s = withAddress (ea m s).val fun t => .next ((k s).setPc t) := (rfl)

/-- A jump goes to the next instruction or, taken, to an address of memory. -/
theorem jumpIf_next {c : Bool} {k : State → State} (h : jumpIf c k m s = .next t) :
    (c = false ∧ t = s.advance) ∨
      (c = true ∧ 0 ≤ (ea m s).val ∧ (ea m s).val < Config.memSize ∧ t = (k s).setPc (ea m s).val.toNat) := by
  cases c with
  | false => exact .inl ⟨rfl, finish_next h⟩
  | true =>
    rw [jumpIf_true] at h
    obtain ⟨h0, h1, h2⟩ := withAddress_next h
    exact .inr ⟨rfl, h0, h1, by cases h2; rfl⟩

theorem jumpIf_not {c : Bool} {k : State → State} (h : c = false) : jumpIf c k m s = finish s := by
  subst h; rfl

theorem jumpIf_taken {c : Bool} {k : State → State} (h : c = true) (h0 : 0 ≤ (ea m s).val)
    (h1 : (ea m s).val < Config.memSize) : jumpIf c k m s = .next ((k s).setPc (ea m s).val.toNat) := by
  subst h; rw [jumpIf_true, withAddress_ok h0 h1]

theorem jumpIf_bad {c : Bool} {k : State → State} (h : c = true)
    (h1 : ¬ (0 ≤ (ea m s).val ∧ (ea m s).val < Config.memSize)) :
    jumpIf c k m s = .fault (.addressOutOfRange (ea m s).val) := by
  subst h; rw [jumpIf_true, withAddress_bad h1]

/-- The jump register after a taken jump, at a PC of memory: next, with the sign + (R360). -/
theorem link_j (s : State) : (link s).j = Half.ofMag .plus (s.pc.toNat + 1) := (rfl)

theorem toNat_setPc {n : Nat} (h : n < 4096) : (s.setPc n).pc.toNat = n := by
  simp only [State.setPc, BitVec.toNat_ofNat]; omega

theorem moveRun_next {n : Nat} (h : moveRun n m s = .next t) :
    (n = 0 ∧ t = s.advance) ∨
      (n ≠ 0 ∧ 0 ≤ (ea m s).val ∧ (ea m s).val + n ≤ Config.memSize ∧ 0 ≤ s.i1.val ∧ s.i1.val + n ≤ Config.memSize ∧
        t = ((s.setMem (s.mem.writeRun s.i1.val.toNat (s.mem.readRun (ea m s).val.toNat n))).setIndex .i1
          (Half.ofMag .plus (s.i1.val.toNat + n))).advance) := by
  unfold moveRun at h
  split at h
  · exact .inl ⟨by assumption, finish_next h⟩
  · obtain ⟨h0, -, h1, h2⟩ := withRun_next h
    obtain ⟨h3, -, h4, h5⟩ := withRun_next h2
    exact .inr ⟨by assumption, h0, h1, h3, h4, finish_next h5⟩

/-- An I/O instruction stops on every unit: the registry is empty. -/
theorem deviceHook_eq (u : Byte) : deviceHook u = .fault (.noDevice u.toNat) := if_neg List.not_mem_nil

/-! ## What each operation can do, as an equivalence: when it answers a next state, and which -/

theorem withCell_eq_next {k : Nat → Word → Result} :
    withCell m f s k = .next t ↔ f.legal = true ∧ 0 ≤ (ea m s).val ∧ (ea m s).val < Config.memSize ∧
      k (ea m s).val.toNat (s.mem.read (ea m s).val.toNat) = .next t :=
  ⟨withCell_next, fun ⟨h0, h1, h2, h3⟩ => by rw [withCell_ok h0 h1 h2, h3]⟩

theorem withHalf_eq_next {v : Word} {k : Half → Result} :
    withHalf v k = .next t ↔ v.mag < 4096 ∧ k v.half = .next t :=
  ⟨withHalf_next, fun ⟨h0, h1⟩ => by rw [withHalf_ok h0, h1]⟩

theorem withShiftCount_eq_next {n : Nat} {k : Nat → Result} :
    withShiftCount m s n k = .next t ↔ 0 ≤ (ea m s).val ∧ k ((ea m s).val.toNat % n) = .next t :=
  ⟨withShiftCount_next, fun ⟨h0, h1⟩ => by rw [withShiftCount_ok h0, h1]⟩

theorem finish_eq_next {u : State} : finish u = .next t ↔ t = u.advance :=
  ⟨finish_next, fun h => by rw [h, finish]⟩

theorem raise_eq_next {e : Fault} : raise e = .next t ↔ False := ⟨fun h => by simp [raise] at h, False.elim⟩

theorem deviceHook_eq_next {u : Byte} : deviceHook u = .next t ↔ False :=
  ⟨fun h => by simp [deviceHook_eq] at h, False.elim⟩

theorem loadFull_eq_next {g : Word → Word} {r : FullReg} :
    loadFull g r m f s = .next t ↔ f.legal = true ∧ 0 ≤ (ea m s).val ∧ (ea m s).val < Config.memSize ∧
      t = (s.setFull r (fieldView (g (s.mem.read (ea m s).val.toNat)) f)).advance := by
  rw [loadFull, withCell_eq_next, finish_eq_next]

theorem loadIndex_eq_next {g : Word → Word} {i : IndexReg} :
    loadIndex g i m f s = .next t ↔ f.legal = true ∧ 0 ≤ (ea m s).val ∧ (ea m s).val < Config.memSize ∧
      (fieldView (g (s.mem.read (ea m s).val.toNat)) f).mag < 4096 ∧
      t = (s.setIndex i (fieldView (g (s.mem.read (ea m s).val.toNat)) f).half).advance := by
  rw [loadIndex, withCell_eq_next, withHalf_eq_next, finish_eq_next]

theorem store_eq_next {src : Word} :
    store src m f s = .next t ↔ f.legal = true ∧ 0 ≤ (ea m s).val ∧ (ea m s).val < Config.memSize ∧
      t = (s.setMem (s.mem.write (ea m s).val.toNat
        (applyField (s.mem.read (ea m s).val.toNat) f src))).advance := by
  rw [store, withCell_eq_next, finish_eq_next]

theorem compareField_eq_next {v : Word} :
    compareField v m f s = .next t ↔ f.legal = true ∧ 0 ≤ (ea m s).val ∧ (ea m s).val < Config.memSize ∧
      t = (s.setCi (compareVals (fieldView v f).val (fieldView (s.mem.read (ea m s).val.toNat) f).val)).advance := by
  rw [compareField, withCell_eq_next, finish_eq_next]

theorem addFull_eq_next {r : FullReg} {d : Int} :
    addFull r d s = .next t ↔
      t = ((s.setFull r (Word.ofMag (signedAdd (s.full r).sign (s.full r).val d 30).sign
        (signedAdd (s.full r).sign (s.full r).val d 30).mag)).orOv
          (signedAdd (s.full r).sign (s.full r).val d 30).overflow).advance := finish_eq_next

theorem addIndex_eq_next {i : IndexReg} {d : Int} :
    addIndex i d s = .next t ↔
      t = ((s.setIndex i (Half.ofMag (signedAdd (s.index i).sign (s.index i).val d 12).sign
        (signedAdd (s.index i).sign (s.index i).val d 12).mag)).orOv
          (signedAdd (s.index i).sign (s.index i).val d 12).overflow).advance := finish_eq_next

theorem multiply_eq_next {v : Word} :
    multiply v s = .next t ↔
      t = ((s.setFull .a (Word.ofMag (s.a.sign.xor v.sign) (s.a.mag * v.mag / 2 ^ 30))).setFull .x
        (Word.ofMag (s.a.sign.xor v.sign) (s.a.mag * v.mag % 2 ^ 30))).advance := finish_eq_next

theorem divide_eq_next {v : Word} :
    divide v s = .next t ↔
      ((v.mag = 0 ∨ v.mag ≤ s.a.mag) ∧ t = (s.setOv true).advance) ∨
      (s.a.mag < v.mag ∧
        t = ((s.setFull .a (Word.ofMag (s.a.sign.xor v.sign) ((s.a.mag * 2 ^ 30 + s.x.mag) / v.mag))).setFull .x
          (Word.ofMag s.a.sign ((s.a.mag * 2 ^ 30 + s.x.mag) % v.mag))).advance) := by
  by_cases hc : s.a.mag < v.mag
  · have hn : ¬ (v.mag = 0 ∨ v.mag ≤ s.a.mag) := by omega
    simp only [divide_ok hc, finish_eq_next, hn, hc, false_and, true_and, false_or]
  · have hp : v.mag = 0 ∨ v.mag ≤ s.a.mag := by omega
    simp only [divide_fail hp, finish_eq_next, hp, hc, false_and, true_and, or_false]

theorem enterFull_eq_next {r : FullReg} {v : Word} : enterFull r v s = .next t ↔ t = (s.setFull r v).advance :=
  finish_eq_next

theorem enterIndex_eq_next {i : IndexReg} {v : Word} :
    enterIndex i v s = .next t ↔ v.mag < 4096 ∧ t = (s.setIndex i v.half).advance := by
  rw [enterIndex, withHalf_eq_next, finish_eq_next]

theorem jumpIf_eq_next {c : Bool} {k : State → State} :
    jumpIf c k m s = .next t ↔ (c = false ∧ t = s.advance) ∨
      (c = true ∧ 0 ≤ (ea m s).val ∧ (ea m s).val < Config.memSize ∧ t = (k s).setPc (ea m s).val.toNat) := by
  refine ⟨jumpIf_next, ?_⟩
  rintro (⟨h, rfl⟩ | ⟨h, h0, h1, rfl⟩)
  · rw [jumpIf_not h, finish]
  · rw [jumpIf_taken h h0 h1]

theorem jumpOn_eq_next {c : SignTest} {v : Int} :
    jumpOn c v m s = .next t ↔ (c.holds v = false ∧ t = s.advance) ∨
      (c.holds v = true ∧ 0 ≤ (ea m s).val ∧ (ea m s).val < Config.memSize ∧
        t = (link s).setPc (ea m s).val.toNat) := jumpIf_eq_next

theorem shiftA_eq_next {op : List Byte → Nat → List Byte} :
    shiftA op m s = .next t ↔ 0 ≤ (ea m s).val ∧
      t = (s.setFull .a (Word.ofBytes s.a.sign (op s.a.bytes ((ea m s).val.toNat % 5)))).advance := by
  rw [shiftA, withShiftCount_eq_next, finish_eq_next]

theorem shiftAX_eq_next {op : List Byte → Nat → List Byte} :
    shiftAX op m s = .next t ↔ 0 ≤ (ea m s).val ∧
      t = ((s.setFull .a (Word.ofBytes s.a.sign
          ((op (s.a.bytes ++ s.x.bytes) ((ea m s).val.toNat % 10)).take 5))).setFull .x
        (Word.ofBytes s.x.sign ((op (s.a.bytes ++ s.x.bytes) ((ea m s).val.toNat % 10)).drop 5))).advance := by
  rw [shiftAX, withShiftCount_eq_next, finish_eq_next]

theorem moveRun_eq_next {n : Nat} :
    moveRun n m s = .next t ↔ (n = 0 ∧ t = s.advance) ∨
      (n ≠ 0 ∧ 0 ≤ (ea m s).val ∧ (ea m s).val + n ≤ Config.memSize ∧ 0 ≤ s.i1.val ∧ s.i1.val + n ≤ Config.memSize ∧
        t = ((s.setMem (s.mem.writeRun s.i1.val.toNat (s.mem.readRun (ea m s).val.toNat n))).setIndex .i1
          (Half.ofMag .plus (s.i1.val.toNat + n))).advance) := by
  refine ⟨moveRun_next, ?_⟩
  rintro (⟨h, rfl⟩ | ⟨h, h0, h1, h2, h3, rfl⟩)
  · rw [moveRun, if_pos h, finish]
  · rw [moveRun, if_neg h, withRun_ok h0 (by omega) h1, withRun_ok h2 (by omega) h3, finish]

end Sys2Proof.Machine
end

