-- ==== Sys2Proof/Laws/Exec.lean ====
section
/-! SUPPORT. The meaning of each instruction as the shared operation it is: one equation per constructor. -/

namespace Sys2Proof.Machine

variable (m : Addr) (f : FieldSpec) (b : Byte) (s : State)

@[simp] theorem exec_nop : exec (.nop m b) s = finish s := (rfl)
@[simp] theorem exec_add : exec (.add m f) s = withCell m f s fun _ w => addFull .a (fieldView w f).val s := (rfl)
@[simp] theorem exec_sub : exec (.sub m f) s = withCell m f s fun _ w => addFull .a (negate (fieldView w f)).val s :=
  (rfl)
@[simp] theorem exec_mul : exec (.mul m f) s = withCell m f s fun _ w => multiply (fieldView w f) s := (rfl)
@[simp] theorem exec_div : exec (.div m f) s = withCell m f s fun _ w => divide (fieldView w f) s := (rfl)
@[simp] theorem exec_num : exec (.num m) s = raise (.invalidOpcode 320) := (rfl)
@[simp] theorem exec_char : exec (.char m) s = raise (.invalidOpcode 321) := (rfl)
@[simp] theorem exec_hlt : exec (.hlt m) s = finish s.setHalt := (rfl)
@[simp] theorem exec_sla : exec (.sla m) s = shiftA shiftLeft m s := (rfl)
@[simp] theorem exec_sra : exec (.sra m) s = shiftA shiftRight m s := (rfl)
@[simp] theorem exec_slax : exec (.slax m) s = shiftAX shiftLeft m s := (rfl)
@[simp] theorem exec_srax : exec (.srax m) s = shiftAX shiftRight m s := (rfl)
@[simp] theorem exec_slc : exec (.slc m) s = shiftAX rotateLeft m s := (rfl)
@[simp] theorem exec_src : exec (.src m) s = shiftAX rotateRight m s := (rfl)
@[simp] theorem exec_move : exec (.move m b) s = moveRun b.toNat m s := (rfl)
@[simp] theorem exec_lda : exec (.lda m f) s = loadFull id .a m f s := (rfl)
@[simp] theorem exec_ld1 : exec (.ld1 m f) s = loadIndex id .i1 m f s := (rfl)
@[simp] theorem exec_ld2 : exec (.ld2 m f) s = loadIndex id .i2 m f s := (rfl)
@[simp] theorem exec_ld3 : exec (.ld3 m f) s = loadIndex id .i3 m f s := (rfl)
@[simp] theorem exec_ld4 : exec (.ld4 m f) s = loadIndex id .i4 m f s := (rfl)
@[simp] theorem exec_ld5 : exec (.ld5 m f) s = loadIndex id .i5 m f s := (rfl)
@[simp] theorem exec_ld6 : exec (.ld6 m f) s = loadIndex id .i6 m f s := (rfl)
@[simp] theorem exec_ldx : exec (.ldx m f) s = loadFull id .x m f s := (rfl)
@[simp] theorem exec_ldan : exec (.ldan m f) s = loadFull negate .a m f s := (rfl)
@[simp] theorem exec_ld1n : exec (.ld1n m f) s = loadIndex negate .i1 m f s := (rfl)
@[simp] theorem exec_ld2n : exec (.ld2n m f) s = loadIndex negate .i2 m f s := (rfl)
@[simp] theorem exec_ld3n : exec (.ld3n m f) s = loadIndex negate .i3 m f s := (rfl)
@[simp] theorem exec_ld4n : exec (.ld4n m f) s = loadIndex negate .i4 m f s := (rfl)
@[simp] theorem exec_ld5n : exec (.ld5n m f) s = loadIndex negate .i5 m f s := (rfl)
@[simp] theorem exec_ld6n : exec (.ld6n m f) s = loadIndex negate .i6 m f s := (rfl)
@[simp] theorem exec_ldxn : exec (.ldxn m f) s = loadFull negate .x m f s := (rfl)
@[simp] theorem exec_sta : exec (.sta m f) s = store s.a m f s := (rfl)
@[simp] theorem exec_st1 : exec (.st1 m f) s = store (pad s.i1) m f s := (rfl)
@[simp] theorem exec_st2 : exec (.st2 m f) s = store (pad s.i2) m f s := (rfl)
@[simp] theorem exec_st3 : exec (.st3 m f) s = store (pad s.i3) m f s := (rfl)
@[simp] theorem exec_st4 : exec (.st4 m f) s = store (pad s.i4) m f s := (rfl)
@[simp] theorem exec_st5 : exec (.st5 m f) s = store (pad s.i5) m f s := (rfl)
@[simp] theorem exec_st6 : exec (.st6 m f) s = store (pad s.i6) m f s := (rfl)
@[simp] theorem exec_stx : exec (.stx m f) s = store s.x m f s := (rfl)
@[simp] theorem exec_stj : exec (.stj m) s = store (pad s.j) m .stj s := (rfl)
@[simp] theorem exec_stz : exec (.stz m f) s = store .zero m f s := (rfl)
@[simp] theorem exec_jbus : exec (.jbus m b) s = deviceHook b := (rfl)
@[simp] theorem exec_ioc : exec (.ioc m b) s = deviceHook b := (rfl)
@[simp] theorem exec_inp : exec (.inp m b) s = deviceHook b := (rfl)
@[simp] theorem exec_out : exec (.out m b) s = deviceHook b := (rfl)
@[simp] theorem exec_jred : exec (.jred m b) s = deviceHook b := (rfl)
@[simp] theorem exec_jmp : exec (.jmp m) s = jumpIf true link m s := (rfl)
@[simp] theorem exec_jsj : exec (.jsj m) s = jumpIf true id m s := (rfl)
@[simp] theorem exec_jov : exec (.jov m) s = jumpIf s.ov (fun t => (link t).setOv false) m s := (rfl)
@[simp] theorem exec_jnov : exec (.jnov m) s = jumpIf (!s.ov) link m s := (rfl)
@[simp] theorem exec_jl : exec (.jl m) s = jumpIf (s.ci == .less) link m s := (rfl)
@[simp] theorem exec_je : exec (.je m) s = jumpIf (s.ci == .equal) link m s := (rfl)
@[simp] theorem exec_jg : exec (.jg m) s = jumpIf (s.ci == .greater) link m s := (rfl)
@[simp] theorem exec_jge : exec (.jge m) s = jumpIf (s.ci == .greater || s.ci == .equal) link m s := (rfl)
@[simp] theorem exec_jne : exec (.jne m) s = jumpIf (s.ci == .less || s.ci == .greater) link m s := (rfl)
@[simp] theorem exec_jle : exec (.jle m) s = jumpIf (s.ci == .less || s.ci == .equal) link m s := (rfl)
@[simp] theorem exec_jan : exec (.jan m) s = jumpOn .n s.a.val m s := (rfl)
@[simp] theorem exec_jaz : exec (.jaz m) s = jumpOn .z s.a.val m s := (rfl)
@[simp] theorem exec_jap : exec (.jap m) s = jumpOn .p s.a.val m s := (rfl)
@[simp] theorem exec_jann : exec (.jann m) s = jumpOn .nn s.a.val m s := (rfl)
@[simp] theorem exec_janz : exec (.janz m) s = jumpOn .nz s.a.val m s := (rfl)
@[simp] theorem exec_janp : exec (.janp m) s = jumpOn .np s.a.val m s := (rfl)
@[simp] theorem exec_j1n : exec (.j1n m) s = jumpOn .n s.i1.val m s := (rfl)
@[simp] theorem exec_j1z : exec (.j1z m) s = jumpOn .z s.i1.val m s := (rfl)
@[simp] theorem exec_j1p : exec (.j1p m) s = jumpOn .p s.i1.val m s := (rfl)
@[simp] theorem exec_j1nn : exec (.j1nn m) s = jumpOn .nn s.i1.val m s := (rfl)
@[simp] theorem exec_j1nz : exec (.j1nz m) s = jumpOn .nz s.i1.val m s := (rfl)
@[simp] theorem exec_j1np : exec (.j1np m) s = jumpOn .np s.i1.val m s := (rfl)
@[simp] theorem exec_j2n : exec (.j2n m) s = jumpOn .n s.i2.val m s := (rfl)
@[simp] theorem exec_j2z : exec (.j2z m) s = jumpOn .z s.i2.val m s := (rfl)
@[simp] theorem exec_j2p : exec (.j2p m) s = jumpOn .p s.i2.val m s := (rfl)
@[simp] theorem exec_j2nn : exec (.j2nn m) s = jumpOn .nn s.i2.val m s := (rfl)
@[simp] theorem exec_j2nz : exec (.j2nz m) s = jumpOn .nz s.i2.val m s := (rfl)
@[simp] theorem exec_j2np : exec (.j2np m) s = jumpOn .np s.i2.val m s := (rfl)
@[simp] theorem exec_j3n : exec (.j3n m) s = jumpOn .n s.i3.val m s := (rfl)
@[simp] theorem exec_j3z : exec (.j3z m) s = jumpOn .z s.i3.val m s := (rfl)
@[simp] theorem exec_j3p : exec (.j3p m) s = jumpOn .p s.i3.val m s := (rfl)
@[simp] theorem exec_j3nn : exec (.j3nn m) s = jumpOn .nn s.i3.val m s := (rfl)
@[simp] theorem exec_j3nz : exec (.j3nz m) s = jumpOn .nz s.i3.val m s := (rfl)
@[simp] theorem exec_j3np : exec (.j3np m) s = jumpOn .np s.i3.val m s := (rfl)
@[simp] theorem exec_j4n : exec (.j4n m) s = jumpOn .n s.i4.val m s := (rfl)
@[simp] theorem exec_j4z : exec (.j4z m) s = jumpOn .z s.i4.val m s := (rfl)
@[simp] theorem exec_j4p : exec (.j4p m) s = jumpOn .p s.i4.val m s := (rfl)
@[simp] theorem exec_j4nn : exec (.j4nn m) s = jumpOn .nn s.i4.val m s := (rfl)
@[simp] theorem exec_j4nz : exec (.j4nz m) s = jumpOn .nz s.i4.val m s := (rfl)
@[simp] theorem exec_j4np : exec (.j4np m) s = jumpOn .np s.i4.val m s := (rfl)
@[simp] theorem exec_j5n : exec (.j5n m) s = jumpOn .n s.i5.val m s := (rfl)
@[simp] theorem exec_j5z : exec (.j5z m) s = jumpOn .z s.i5.val m s := (rfl)
@[simp] theorem exec_j5p : exec (.j5p m) s = jumpOn .p s.i5.val m s := (rfl)
@[simp] theorem exec_j5nn : exec (.j5nn m) s = jumpOn .nn s.i5.val m s := (rfl)
@[simp] theorem exec_j5nz : exec (.j5nz m) s = jumpOn .nz s.i5.val m s := (rfl)
@[simp] theorem exec_j5np : exec (.j5np m) s = jumpOn .np s.i5.val m s := (rfl)
@[simp] theorem exec_j6n : exec (.j6n m) s = jumpOn .n s.i6.val m s := (rfl)
@[simp] theorem exec_j6z : exec (.j6z m) s = jumpOn .z s.i6.val m s := (rfl)
@[simp] theorem exec_j6p : exec (.j6p m) s = jumpOn .p s.i6.val m s := (rfl)
@[simp] theorem exec_j6nn : exec (.j6nn m) s = jumpOn .nn s.i6.val m s := (rfl)
@[simp] theorem exec_j6nz : exec (.j6nz m) s = jumpOn .nz s.i6.val m s := (rfl)
@[simp] theorem exec_j6np : exec (.j6np m) s = jumpOn .np s.i6.val m s := (rfl)
@[simp] theorem exec_jxn : exec (.jxn m) s = jumpOn .n s.x.val m s := (rfl)
@[simp] theorem exec_jxz : exec (.jxz m) s = jumpOn .z s.x.val m s := (rfl)
@[simp] theorem exec_jxp : exec (.jxp m) s = jumpOn .p s.x.val m s := (rfl)
@[simp] theorem exec_jxnn : exec (.jxnn m) s = jumpOn .nn s.x.val m s := (rfl)
@[simp] theorem exec_jxnz : exec (.jxnz m) s = jumpOn .nz s.x.val m s := (rfl)
@[simp] theorem exec_jxnp : exec (.jxnp m) s = jumpOn .np s.x.val m s := (rfl)
@[simp] theorem exec_inca : exec (.inca m) s = addFull .a (ea m s).val s := (rfl)
@[simp] theorem exec_deca : exec (.deca m) s = addFull .a (-(ea m s).val) s := (rfl)
@[simp] theorem exec_enta : exec (.enta m) s = enterFull .a (ea m s).word s := (rfl)
@[simp] theorem exec_enna : exec (.enna m) s = enterFull .a (negate (ea m s).word) s := (rfl)
@[simp] theorem exec_inc1 : exec (.inc1 m) s = addIndex .i1 (ea m s).val s := (rfl)
@[simp] theorem exec_dec1 : exec (.dec1 m) s = addIndex .i1 (-(ea m s).val) s := (rfl)
@[simp] theorem exec_ent1 : exec (.ent1 m) s = enterIndex .i1 (ea m s).word s := (rfl)
@[simp] theorem exec_enn1 : exec (.enn1 m) s = enterIndex .i1 (negate (ea m s).word) s := (rfl)
@[simp] theorem exec_inc2 : exec (.inc2 m) s = addIndex .i2 (ea m s).val s := (rfl)
@[simp] theorem exec_dec2 : exec (.dec2 m) s = addIndex .i2 (-(ea m s).val) s := (rfl)
@[simp] theorem exec_ent2 : exec (.ent2 m) s = enterIndex .i2 (ea m s).word s := (rfl)
@[simp] theorem exec_enn2 : exec (.enn2 m) s = enterIndex .i2 (negate (ea m s).word) s := (rfl)
@[simp] theorem exec_inc3 : exec (.inc3 m) s = addIndex .i3 (ea m s).val s := (rfl)
@[simp] theorem exec_dec3 : exec (.dec3 m) s = addIndex .i3 (-(ea m s).val) s := (rfl)
@[simp] theorem exec_ent3 : exec (.ent3 m) s = enterIndex .i3 (ea m s).word s := (rfl)
@[simp] theorem exec_enn3 : exec (.enn3 m) s = enterIndex .i3 (negate (ea m s).word) s := (rfl)
@[simp] theorem exec_inc4 : exec (.inc4 m) s = addIndex .i4 (ea m s).val s := (rfl)
@[simp] theorem exec_dec4 : exec (.dec4 m) s = addIndex .i4 (-(ea m s).val) s := (rfl)
@[simp] theorem exec_ent4 : exec (.ent4 m) s = enterIndex .i4 (ea m s).word s := (rfl)
@[simp] theorem exec_enn4 : exec (.enn4 m) s = enterIndex .i4 (negate (ea m s).word) s := (rfl)
@[simp] theorem exec_inc5 : exec (.inc5 m) s = addIndex .i5 (ea m s).val s := (rfl)
@[simp] theorem exec_dec5 : exec (.dec5 m) s = addIndex .i5 (-(ea m s).val) s := (rfl)
@[simp] theorem exec_ent5 : exec (.ent5 m) s = enterIndex .i5 (ea m s).word s := (rfl)
@[simp] theorem exec_enn5 : exec (.enn5 m) s = enterIndex .i5 (negate (ea m s).word) s := (rfl)
@[simp] theorem exec_inc6 : exec (.inc6 m) s = addIndex .i6 (ea m s).val s := (rfl)
@[simp] theorem exec_dec6 : exec (.dec6 m) s = addIndex .i6 (-(ea m s).val) s := (rfl)
@[simp] theorem exec_ent6 : exec (.ent6 m) s = enterIndex .i6 (ea m s).word s := (rfl)
@[simp] theorem exec_enn6 : exec (.enn6 m) s = enterIndex .i6 (negate (ea m s).word) s := (rfl)
@[simp] theorem exec_incx : exec (.incx m) s = addFull .x (ea m s).val s := (rfl)
@[simp] theorem exec_decx : exec (.decx m) s = addFull .x (-(ea m s).val) s := (rfl)
@[simp] theorem exec_entx : exec (.entx m) s = enterFull .x (ea m s).word s := (rfl)
@[simp] theorem exec_ennx : exec (.ennx m) s = enterFull .x (negate (ea m s).word) s := (rfl)
@[simp] theorem exec_cmpa : exec (.cmpa m f) s = compareField s.a m f s := (rfl)
@[simp] theorem exec_cmp1 : exec (.cmp1 m f) s = compareField (pad s.i1) m f s := (rfl)
@[simp] theorem exec_cmp2 : exec (.cmp2 m f) s = compareField (pad s.i2) m f s := (rfl)
@[simp] theorem exec_cmp3 : exec (.cmp3 m f) s = compareField (pad s.i3) m f s := (rfl)
@[simp] theorem exec_cmp4 : exec (.cmp4 m f) s = compareField (pad s.i4) m f s := (rfl)
@[simp] theorem exec_cmp5 : exec (.cmp5 m f) s = compareField (pad s.i5) m f s := (rfl)
@[simp] theorem exec_cmp6 : exec (.cmp6 m f) s = compareField (pad s.i6) m f s := (rfl)
@[simp] theorem exec_cmpx : exec (.cmpx m f) s = compareField s.x m f s := (rfl)

end Sys2Proof.Machine
end

