-- ==== Sys2Proof/Laws/PerInstr.lean ====
section
/-! SUPPORT. Statements about the instruction as syntax, instruction by instruction. -/

namespace Sys2Proof.Laws.RoundTrip

/-- The word of a well-formed instruction decodes to it. -/
def Statement (i : Instr) : Prop := i.WellFormed → decode (encode i) = .ok i

theorem nop (m : Addr) (f : Byte) : Statement (.nop m f) := fun _ => decode_assemble m _ _
theorem add (m : Addr) (f : FieldSpec) : Statement (.add m f) := fun h =>
  (decode_assemble m f.toByte 1).trans (withFieldSpec_toByte h _)
theorem sub (m : Addr) (f : FieldSpec) : Statement (.sub m f) := fun h =>
  (decode_assemble m f.toByte 2).trans (withFieldSpec_toByte h _)
theorem mul (m : Addr) (f : FieldSpec) : Statement (.mul m f) := fun h =>
  (decode_assemble m f.toByte 3).trans (withFieldSpec_toByte h _)
theorem div (m : Addr) (f : FieldSpec) : Statement (.div m f) := fun h =>
  (decode_assemble m f.toByte 4).trans (withFieldSpec_toByte h _)
theorem num (m : Addr) : Statement (.num m) := fun _ => decode_assemble m _ _
theorem char (m : Addr) : Statement (.char m) := fun _ => decode_assemble m _ _
theorem hlt (m : Addr) : Statement (.hlt m) := fun _ => decode_assemble m _ _
theorem sla (m : Addr) : Statement (.sla m) := fun _ => decode_assemble m _ _
theorem sra (m : Addr) : Statement (.sra m) := fun _ => decode_assemble m _ _
theorem slax (m : Addr) : Statement (.slax m) := fun _ => decode_assemble m _ _
theorem srax (m : Addr) : Statement (.srax m) := fun _ => decode_assemble m _ _
theorem slc (m : Addr) : Statement (.slc m) := fun _ => decode_assemble m _ _
theorem src (m : Addr) : Statement (.src m) := fun _ => decode_assemble m _ _
theorem move (m : Addr) (n : Byte) : Statement (.move m n) := fun _ => decode_assemble m _ _
theorem lda (m : Addr) (f : FieldSpec) : Statement (.lda m f) := fun h =>
  (decode_assemble m f.toByte 8).trans (withFieldSpec_toByte h _)
theorem ld1 (m : Addr) (f : FieldSpec) : Statement (.ld1 m f) := fun h =>
  (decode_assemble m f.toByte 9).trans (withFieldSpec_toByte h _)
theorem ld2 (m : Addr) (f : FieldSpec) : Statement (.ld2 m f) := fun h =>
  (decode_assemble m f.toByte 10).trans (withFieldSpec_toByte h _)
theorem ld3 (m : Addr) (f : FieldSpec) : Statement (.ld3 m f) := fun h =>
  (decode_assemble m f.toByte 11).trans (withFieldSpec_toByte h _)
theorem ld4 (m : Addr) (f : FieldSpec) : Statement (.ld4 m f) := fun h =>
  (decode_assemble m f.toByte 12).trans (withFieldSpec_toByte h _)
theorem ld5 (m : Addr) (f : FieldSpec) : Statement (.ld5 m f) := fun h =>
  (decode_assemble m f.toByte 13).trans (withFieldSpec_toByte h _)
theorem ld6 (m : Addr) (f : FieldSpec) : Statement (.ld6 m f) := fun h =>
  (decode_assemble m f.toByte 14).trans (withFieldSpec_toByte h _)
theorem ldx (m : Addr) (f : FieldSpec) : Statement (.ldx m f) := fun h =>
  (decode_assemble m f.toByte 15).trans (withFieldSpec_toByte h _)
theorem ldan (m : Addr) (f : FieldSpec) : Statement (.ldan m f) := fun h =>
  (decode_assemble m f.toByte 16).trans (withFieldSpec_toByte h _)
theorem ld1n (m : Addr) (f : FieldSpec) : Statement (.ld1n m f) := fun h =>
  (decode_assemble m f.toByte 17).trans (withFieldSpec_toByte h _)
theorem ld2n (m : Addr) (f : FieldSpec) : Statement (.ld2n m f) := fun h =>
  (decode_assemble m f.toByte 18).trans (withFieldSpec_toByte h _)
theorem ld3n (m : Addr) (f : FieldSpec) : Statement (.ld3n m f) := fun h =>
  (decode_assemble m f.toByte 19).trans (withFieldSpec_toByte h _)
theorem ld4n (m : Addr) (f : FieldSpec) : Statement (.ld4n m f) := fun h =>
  (decode_assemble m f.toByte 20).trans (withFieldSpec_toByte h _)
theorem ld5n (m : Addr) (f : FieldSpec) : Statement (.ld5n m f) := fun h =>
  (decode_assemble m f.toByte 21).trans (withFieldSpec_toByte h _)
theorem ld6n (m : Addr) (f : FieldSpec) : Statement (.ld6n m f) := fun h =>
  (decode_assemble m f.toByte 22).trans (withFieldSpec_toByte h _)
theorem ldxn (m : Addr) (f : FieldSpec) : Statement (.ldxn m f) := fun h =>
  (decode_assemble m f.toByte 23).trans (withFieldSpec_toByte h _)
theorem sta (m : Addr) (f : FieldSpec) : Statement (.sta m f) := fun h =>
  (decode_assemble m f.toByte 24).trans (withFieldSpec_toByte h _)
theorem st1 (m : Addr) (f : FieldSpec) : Statement (.st1 m f) := fun h =>
  (decode_assemble m f.toByte 25).trans (withFieldSpec_toByte h _)
theorem st2 (m : Addr) (f : FieldSpec) : Statement (.st2 m f) := fun h =>
  (decode_assemble m f.toByte 26).trans (withFieldSpec_toByte h _)
theorem st3 (m : Addr) (f : FieldSpec) : Statement (.st3 m f) := fun h =>
  (decode_assemble m f.toByte 27).trans (withFieldSpec_toByte h _)
theorem st4 (m : Addr) (f : FieldSpec) : Statement (.st4 m f) := fun h =>
  (decode_assemble m f.toByte 28).trans (withFieldSpec_toByte h _)
theorem st5 (m : Addr) (f : FieldSpec) : Statement (.st5 m f) := fun h =>
  (decode_assemble m f.toByte 29).trans (withFieldSpec_toByte h _)
theorem st6 (m : Addr) (f : FieldSpec) : Statement (.st6 m f) := fun h =>
  (decode_assemble m f.toByte 30).trans (withFieldSpec_toByte h _)
theorem stx (m : Addr) (f : FieldSpec) : Statement (.stx m f) := fun h =>
  (decode_assemble m f.toByte 31).trans (withFieldSpec_toByte h _)
theorem stj (m : Addr) : Statement (.stj m) := fun _ => decode_assemble m _ _
theorem stz (m : Addr) (f : FieldSpec) : Statement (.stz m f) := fun h =>
  (decode_assemble m f.toByte 33).trans (withFieldSpec_toByte h _)
theorem jbus (m : Addr) (u : Byte) : Statement (.jbus m u) := fun _ => decode_assemble m _ _
theorem ioc (m : Addr) (u : Byte) : Statement (.ioc m u) := fun _ => decode_assemble m _ _
theorem inp (m : Addr) (u : Byte) : Statement (.inp m u) := fun _ => decode_assemble m _ _
theorem out (m : Addr) (u : Byte) : Statement (.out m u) := fun _ => decode_assemble m _ _
theorem jred (m : Addr) (u : Byte) : Statement (.jred m u) := fun _ => decode_assemble m _ _
theorem jmp (m : Addr) : Statement (.jmp m) := fun _ => decode_assemble m _ _
theorem jsj (m : Addr) : Statement (.jsj m) := fun _ => decode_assemble m _ _
theorem jov (m : Addr) : Statement (.jov m) := fun _ => decode_assemble m _ _
theorem jnov (m : Addr) : Statement (.jnov m) := fun _ => decode_assemble m _ _
theorem jl (m : Addr) : Statement (.jl m) := fun _ => decode_assemble m _ _
theorem je (m : Addr) : Statement (.je m) := fun _ => decode_assemble m _ _
theorem jg (m : Addr) : Statement (.jg m) := fun _ => decode_assemble m _ _
theorem jge (m : Addr) : Statement (.jge m) := fun _ => decode_assemble m _ _
theorem jne (m : Addr) : Statement (.jne m) := fun _ => decode_assemble m _ _
theorem jle (m : Addr) : Statement (.jle m) := fun _ => decode_assemble m _ _
theorem jan (m : Addr) : Statement (.jan m) := fun _ => decode_assemble m _ _
theorem jaz (m : Addr) : Statement (.jaz m) := fun _ => decode_assemble m _ _
theorem jap (m : Addr) : Statement (.jap m) := fun _ => decode_assemble m _ _
theorem jann (m : Addr) : Statement (.jann m) := fun _ => decode_assemble m _ _
theorem janz (m : Addr) : Statement (.janz m) := fun _ => decode_assemble m _ _
theorem janp (m : Addr) : Statement (.janp m) := fun _ => decode_assemble m _ _
theorem j1n (m : Addr) : Statement (.j1n m) := fun _ => decode_assemble m _ _
theorem j1z (m : Addr) : Statement (.j1z m) := fun _ => decode_assemble m _ _
theorem j1p (m : Addr) : Statement (.j1p m) := fun _ => decode_assemble m _ _
theorem j1nn (m : Addr) : Statement (.j1nn m) := fun _ => decode_assemble m _ _
theorem j1nz (m : Addr) : Statement (.j1nz m) := fun _ => decode_assemble m _ _
theorem j1np (m : Addr) : Statement (.j1np m) := fun _ => decode_assemble m _ _
theorem j2n (m : Addr) : Statement (.j2n m) := fun _ => decode_assemble m _ _
theorem j2z (m : Addr) : Statement (.j2z m) := fun _ => decode_assemble m _ _
theorem j2p (m : Addr) : Statement (.j2p m) := fun _ => decode_assemble m _ _
theorem j2nn (m : Addr) : Statement (.j2nn m) := fun _ => decode_assemble m _ _
theorem j2nz (m : Addr) : Statement (.j2nz m) := fun _ => decode_assemble m _ _
theorem j2np (m : Addr) : Statement (.j2np m) := fun _ => decode_assemble m _ _
theorem j3n (m : Addr) : Statement (.j3n m) := fun _ => decode_assemble m _ _
theorem j3z (m : Addr) : Statement (.j3z m) := fun _ => decode_assemble m _ _
theorem j3p (m : Addr) : Statement (.j3p m) := fun _ => decode_assemble m _ _
theorem j3nn (m : Addr) : Statement (.j3nn m) := fun _ => decode_assemble m _ _
theorem j3nz (m : Addr) : Statement (.j3nz m) := fun _ => decode_assemble m _ _
theorem j3np (m : Addr) : Statement (.j3np m) := fun _ => decode_assemble m _ _
theorem j4n (m : Addr) : Statement (.j4n m) := fun _ => decode_assemble m _ _
theorem j4z (m : Addr) : Statement (.j4z m) := fun _ => decode_assemble m _ _
theorem j4p (m : Addr) : Statement (.j4p m) := fun _ => decode_assemble m _ _
theorem j4nn (m : Addr) : Statement (.j4nn m) := fun _ => decode_assemble m _ _
theorem j4nz (m : Addr) : Statement (.j4nz m) := fun _ => decode_assemble m _ _
theorem j4np (m : Addr) : Statement (.j4np m) := fun _ => decode_assemble m _ _
theorem j5n (m : Addr) : Statement (.j5n m) := fun _ => decode_assemble m _ _
theorem j5z (m : Addr) : Statement (.j5z m) := fun _ => decode_assemble m _ _
theorem j5p (m : Addr) : Statement (.j5p m) := fun _ => decode_assemble m _ _
theorem j5nn (m : Addr) : Statement (.j5nn m) := fun _ => decode_assemble m _ _
theorem j5nz (m : Addr) : Statement (.j5nz m) := fun _ => decode_assemble m _ _
theorem j5np (m : Addr) : Statement (.j5np m) := fun _ => decode_assemble m _ _
theorem j6n (m : Addr) : Statement (.j6n m) := fun _ => decode_assemble m _ _
theorem j6z (m : Addr) : Statement (.j6z m) := fun _ => decode_assemble m _ _
theorem j6p (m : Addr) : Statement (.j6p m) := fun _ => decode_assemble m _ _
theorem j6nn (m : Addr) : Statement (.j6nn m) := fun _ => decode_assemble m _ _
theorem j6nz (m : Addr) : Statement (.j6nz m) := fun _ => decode_assemble m _ _
theorem j6np (m : Addr) : Statement (.j6np m) := fun _ => decode_assemble m _ _
theorem jxn (m : Addr) : Statement (.jxn m) := fun _ => decode_assemble m _ _
theorem jxz (m : Addr) : Statement (.jxz m) := fun _ => decode_assemble m _ _
theorem jxp (m : Addr) : Statement (.jxp m) := fun _ => decode_assemble m _ _
theorem jxnn (m : Addr) : Statement (.jxnn m) := fun _ => decode_assemble m _ _
theorem jxnz (m : Addr) : Statement (.jxnz m) := fun _ => decode_assemble m _ _
theorem jxnp (m : Addr) : Statement (.jxnp m) := fun _ => decode_assemble m _ _
theorem inca (m : Addr) : Statement (.inca m) := fun _ => decode_assemble m _ _
theorem deca (m : Addr) : Statement (.deca m) := fun _ => decode_assemble m _ _
theorem enta (m : Addr) : Statement (.enta m) := fun _ => decode_assemble m _ _
theorem enna (m : Addr) : Statement (.enna m) := fun _ => decode_assemble m _ _
theorem inc1 (m : Addr) : Statement (.inc1 m) := fun _ => decode_assemble m _ _
theorem dec1 (m : Addr) : Statement (.dec1 m) := fun _ => decode_assemble m _ _
theorem ent1 (m : Addr) : Statement (.ent1 m) := fun _ => decode_assemble m _ _
theorem enn1 (m : Addr) : Statement (.enn1 m) := fun _ => decode_assemble m _ _
theorem inc2 (m : Addr) : Statement (.inc2 m) := fun _ => decode_assemble m _ _
theorem dec2 (m : Addr) : Statement (.dec2 m) := fun _ => decode_assemble m _ _
theorem ent2 (m : Addr) : Statement (.ent2 m) := fun _ => decode_assemble m _ _
theorem enn2 (m : Addr) : Statement (.enn2 m) := fun _ => decode_assemble m _ _
theorem inc3 (m : Addr) : Statement (.inc3 m) := fun _ => decode_assemble m _ _
theorem dec3 (m : Addr) : Statement (.dec3 m) := fun _ => decode_assemble m _ _
theorem ent3 (m : Addr) : Statement (.ent3 m) := fun _ => decode_assemble m _ _
theorem enn3 (m : Addr) : Statement (.enn3 m) := fun _ => decode_assemble m _ _
theorem inc4 (m : Addr) : Statement (.inc4 m) := fun _ => decode_assemble m _ _
theorem dec4 (m : Addr) : Statement (.dec4 m) := fun _ => decode_assemble m _ _
theorem ent4 (m : Addr) : Statement (.ent4 m) := fun _ => decode_assemble m _ _
theorem enn4 (m : Addr) : Statement (.enn4 m) := fun _ => decode_assemble m _ _
theorem inc5 (m : Addr) : Statement (.inc5 m) := fun _ => decode_assemble m _ _
theorem dec5 (m : Addr) : Statement (.dec5 m) := fun _ => decode_assemble m _ _
theorem ent5 (m : Addr) : Statement (.ent5 m) := fun _ => decode_assemble m _ _
theorem enn5 (m : Addr) : Statement (.enn5 m) := fun _ => decode_assemble m _ _
theorem inc6 (m : Addr) : Statement (.inc6 m) := fun _ => decode_assemble m _ _
theorem dec6 (m : Addr) : Statement (.dec6 m) := fun _ => decode_assemble m _ _
theorem ent6 (m : Addr) : Statement (.ent6 m) := fun _ => decode_assemble m _ _
theorem enn6 (m : Addr) : Statement (.enn6 m) := fun _ => decode_assemble m _ _
theorem incx (m : Addr) : Statement (.incx m) := fun _ => decode_assemble m _ _
theorem decx (m : Addr) : Statement (.decx m) := fun _ => decode_assemble m _ _
theorem entx (m : Addr) : Statement (.entx m) := fun _ => decode_assemble m _ _
theorem ennx (m : Addr) : Statement (.ennx m) := fun _ => decode_assemble m _ _
theorem cmpa (m : Addr) (f : FieldSpec) : Statement (.cmpa m f) := fun h =>
  (decode_assemble m f.toByte 56).trans (withFieldSpec_toByte h _)
theorem cmp1 (m : Addr) (f : FieldSpec) : Statement (.cmp1 m f) := fun h =>
  (decode_assemble m f.toByte 57).trans (withFieldSpec_toByte h _)
theorem cmp2 (m : Addr) (f : FieldSpec) : Statement (.cmp2 m f) := fun h =>
  (decode_assemble m f.toByte 58).trans (withFieldSpec_toByte h _)
theorem cmp3 (m : Addr) (f : FieldSpec) : Statement (.cmp3 m f) := fun h =>
  (decode_assemble m f.toByte 59).trans (withFieldSpec_toByte h _)
theorem cmp4 (m : Addr) (f : FieldSpec) : Statement (.cmp4 m f) := fun h =>
  (decode_assemble m f.toByte 60).trans (withFieldSpec_toByte h _)
theorem cmp5 (m : Addr) (f : FieldSpec) : Statement (.cmp5 m f) := fun h =>
  (decode_assemble m f.toByte 61).trans (withFieldSpec_toByte h _)
theorem cmp6 (m : Addr) (f : FieldSpec) : Statement (.cmp6 m f) := fun h =>
  (decode_assemble m f.toByte 62).trans (withFieldSpec_toByte h _)
theorem cmpx (m : Addr) (f : FieldSpec) : Statement (.cmpx m f) := fun h =>
  (decode_assemble m f.toByte 63).trans (withFieldSpec_toByte h _)

end Sys2Proof.Laws.RoundTrip
end

