-- ==== Sys2Proof/Tests/Slice0.lean ====
section
/-! SUPPORT. The model's own tests: the well-formedness check, words written out from the encoding, steps and host
operations whose results come from the spec's example lines and its vectors (95_test_vectors.md), and for each
statement that has hypotheses a witness that meets them, at the ends of their ranges. -/

namespace Sys2Proof.Tests

open Sys2Proof.Machine Sys2Proof.Spec

/-! ## Helpers -/

/-- The words the vectors use most. -/
def w : Word := ⟨.minus, 1, 2, 3, 4, 5⟩
def up : Word := ⟨.plus, 1, 2, 3, 4, 5⟩
def down : Word := ⟨.minus, 6, 7, 8, 9, 10⟩

/-- The memory with the listed cells written. -/
def cells (m : Memory) (l : List (Nat × Word)) : Memory := l.foldl (fun m c => m.write c.1 c.2) m

/-- The state a vector starts from: reset at `pc`, the listed changes, and the word with encoding `n` at `pc`. -/
def before (pc : BitVec 12) (f : State → State) (n : Nat) : State :=
  let s := f (State.resetAt pc)
  { s with mem := s.mem.write pc.toNat (Word.ofEnc n) }

/-- The step completes, and changes PC to the following address and then the listed state, nothing else. -/
def gives (pc : BitVec 12) (f : State → State) (n : Nat) (g : State → State) : Bool :=
  match step (before pc f n) with
  | .next t => t == g { before pc f n with pc := pc + 1 }
  | _ => false

/-- The step ends in the fault. -/
def faults (pc : BitVec 12) (f : State → State) (n : Nat) (e : Fault) : Bool :=
  match step (before pc f n) with
  | .fault g => g == e
  | _ => false

/-- Every listed word decodes to the instruction beside it, is well formed, and encodes back. -/
def decodesAll (l : List (Word × Instr)) : Bool :=
  l.all fun p => decode p.1 == .ok p.2 && p.2.wellFormed && encode p.2 == p.1

/-! ## Well-formed instructions -/

/-- Smoke test: a field with L > R is refused by the check, for a load, a store, an arithmetic and a compare opcode;
and running such a term, which no word decodes to, stops by name (log entry 6). -/
theorem test_illformed_field_is_refused :
    Instr.wellFormed (.lda ⟨.plus, 0, none⟩ ⟨2, 1⟩) = false ∧ Instr.wellFormed (.stz ⟨.plus, 0, none⟩ ⟨5, 0⟩) = false ∧
      Instr.wellFormed (.div ⟨.plus, 0, none⟩ ⟨1, 0⟩) = false ∧ Instr.wellFormed (.cmp6 ⟨.plus, 0, none⟩ ⟨5, 4⟩) = false ∧
      Instr.wellFormed (.lda ⟨.plus, 0, none⟩ ⟨2, 2⟩) = true := by decide

theorem test_illformed_instruction_stops :
    exec (.lda ⟨.plus, 0, none⟩ ⟨2, 1⟩) State.reset = .fault (.invalidFieldSpec 17) := by rfl

/-! ## Decoding: bytes written out from R101, R102, R104, R105 and the opcode table -/

/-- One word of each instruction, bytes as R101 lays them out. -/
theorem test_decode_control : decodesAll [
    (⟨.minus, 62, 31, 1, 17, 0⟩, .nop ⟨.minus, 3999, some .i1⟩ 17),
    (⟨.plus, 0, 0, 2, 0, 5⟩, .num ⟨.plus, 0, some .i2⟩),
    (⟨.minus, 63, 63, 3, 1, 5⟩, .char ⟨.minus, 4095, some .i3⟩),
    (⟨.plus, 0, 63, 4, 2, 5⟩, .hlt ⟨.plus, 63, some .i4⟩),
    (⟨.minus, 1, 0, 5, 21, 7⟩, .move ⟨.minus, 64, some .i5⟩ 21)] = true := by decide

/-- One word of each instruction, bytes as R101 lays them out. -/
theorem test_decode_arithmetic : decodesAll [
    (⟨.plus, 1, 36, 6, 45, 1⟩, .add ⟨.plus, 100, some .i6⟩ ⟨5, 5⟩),
    (⟨.minus, 31, 16, 0, 20, 2⟩, .sub ⟨.minus, 2000, none⟩ ⟨2, 4⟩),
    (⟨.plus, 62, 31, 1, 5, 3⟩, .mul ⟨.plus, 3999, some .i1⟩ ⟨0, 5⟩),
    (⟨.minus, 0, 0, 2, 0, 4⟩, .div ⟨.minus, 0, some .i2⟩ ⟨0, 0⟩)] = true := by decide

/-- One word of each instruction, bytes as R101 lays them out. -/
theorem test_decode_shifts : decodesAll [
    (⟨.plus, 63, 63, 3, 0, 6⟩, .sla ⟨.plus, 4095, some .i3⟩),
    (⟨.minus, 0, 63, 4, 1, 6⟩, .sra ⟨.minus, 63, some .i4⟩),
    (⟨.plus, 1, 0, 5, 2, 6⟩, .slax ⟨.plus, 64, some .i5⟩),
    (⟨.minus, 1, 36, 6, 3, 6⟩, .srax ⟨.minus, 100, some .i6⟩),
    (⟨.plus, 31, 16, 0, 4, 6⟩, .slc ⟨.plus, 2000, none⟩),
    (⟨.minus, 62, 31, 1, 5, 6⟩, .src ⟨.minus, 3999, some .i1⟩)] = true := by decide

/-- One word of each instruction, bytes as R101 lays them out. -/
theorem test_decode_loads : decodesAll [
    (⟨.plus, 0, 0, 2, 5, 8⟩, .lda ⟨.plus, 0, some .i2⟩ ⟨0, 5⟩),
    (⟨.minus, 63, 63, 3, 0, 9⟩, .ld1 ⟨.minus, 4095, some .i3⟩ ⟨0, 0⟩),
    (⟨.plus, 0, 63, 4, 13, 10⟩, .ld2 ⟨.plus, 63, some .i4⟩ ⟨1, 5⟩),
    (⟨.minus, 1, 0, 5, 2, 11⟩, .ld3 ⟨.minus, 64, some .i5⟩ ⟨0, 2⟩),
    (⟨.plus, 1, 36, 6, 37, 12⟩, .ld4 ⟨.plus, 100, some .i6⟩ ⟨4, 5⟩),
    (⟨.minus, 31, 16, 0, 27, 13⟩, .ld5 ⟨.minus, 2000, none⟩ ⟨3, 3⟩),
    (⟨.plus, 62, 31, 1, 45, 14⟩, .ld6 ⟨.plus, 3999, some .i1⟩ ⟨5, 5⟩),
    (⟨.minus, 0, 0, 2, 20, 15⟩, .ldx ⟨.minus, 0, some .i2⟩ ⟨2, 4⟩)] = true := by decide

/-- One word of each instruction, bytes as R101 lays them out. -/
theorem test_decode_negated_loads : decodesAll [
    (⟨.plus, 63, 63, 3, 5, 16⟩, .ldan ⟨.plus, 4095, some .i3⟩ ⟨0, 5⟩),
    (⟨.minus, 0, 63, 4, 0, 17⟩, .ld1n ⟨.minus, 63, some .i4⟩ ⟨0, 0⟩),
    (⟨.plus, 1, 0, 5, 13, 18⟩, .ld2n ⟨.plus, 64, some .i5⟩ ⟨1, 5⟩),
    (⟨.minus, 1, 36, 6, 2, 19⟩, .ld3n ⟨.minus, 100, some .i6⟩ ⟨0, 2⟩),
    (⟨.plus, 31, 16, 0, 37, 20⟩, .ld4n ⟨.plus, 2000, none⟩ ⟨4, 5⟩),
    (⟨.minus, 62, 31, 1, 27, 21⟩, .ld5n ⟨.minus, 3999, some .i1⟩ ⟨3, 3⟩),
    (⟨.plus, 0, 0, 2, 45, 22⟩, .ld6n ⟨.plus, 0, some .i2⟩ ⟨5, 5⟩),
    (⟨.minus, 63, 63, 3, 20, 23⟩, .ldxn ⟨.minus, 4095, some .i3⟩ ⟨2, 4⟩)] = true := by decide

/-- One word of each instruction, bytes as R101 lays them out. -/
theorem test_decode_stores : decodesAll [
    (⟨.plus, 0, 63, 4, 5, 24⟩, .sta ⟨.plus, 63, some .i4⟩ ⟨0, 5⟩),
    (⟨.minus, 1, 0, 5, 0, 25⟩, .st1 ⟨.minus, 64, some .i5⟩ ⟨0, 0⟩),
    (⟨.plus, 1, 36, 6, 13, 26⟩, .st2 ⟨.plus, 100, some .i6⟩ ⟨1, 5⟩),
    (⟨.minus, 31, 16, 0, 2, 27⟩, .st3 ⟨.minus, 2000, none⟩ ⟨0, 2⟩),
    (⟨.plus, 62, 31, 1, 37, 28⟩, .st4 ⟨.plus, 3999, some .i1⟩ ⟨4, 5⟩),
    (⟨.minus, 0, 0, 2, 27, 29⟩, .st5 ⟨.minus, 0, some .i2⟩ ⟨3, 3⟩),
    (⟨.plus, 63, 63, 3, 45, 30⟩, .st6 ⟨.plus, 4095, some .i3⟩ ⟨5, 5⟩),
    (⟨.minus, 0, 63, 4, 20, 31⟩, .stx ⟨.minus, 63, some .i4⟩ ⟨2, 4⟩),
    (⟨.plus, 1, 0, 5, 2, 32⟩, .stj ⟨.plus, 64, some .i5⟩),
    (⟨.minus, 1, 36, 6, 0, 33⟩, .stz ⟨.minus, 100, some .i6⟩ ⟨0, 0⟩)] = true := by decide

/-- One word of each instruction, bytes as R101 lays them out. -/
theorem test_decode_io : decodesAll [
    (⟨.plus, 31, 16, 0, 10, 34⟩, .jbus ⟨.plus, 2000, none⟩ 10),
    (⟨.minus, 62, 31, 1, 27, 35⟩, .ioc ⟨.minus, 3999, some .i1⟩ 27),
    (⟨.plus, 0, 0, 2, 44, 36⟩, .inp ⟨.plus, 0, some .i2⟩ 44),
    (⟨.minus, 63, 63, 3, 61, 37⟩, .out ⟨.minus, 4095, some .i3⟩ 61),
    (⟨.plus, 0, 63, 4, 14, 38⟩, .jred ⟨.plus, 63, some .i4⟩ 14)] = true := by decide

/-- One word of each instruction, bytes as R101 lays them out. -/
theorem test_decode_jumps : decodesAll [
    (⟨.minus, 1, 0, 5, 0, 39⟩, .jmp ⟨.minus, 64, some .i5⟩),
    (⟨.plus, 1, 36, 6, 1, 39⟩, .jsj ⟨.plus, 100, some .i6⟩),
    (⟨.minus, 31, 16, 0, 2, 39⟩, .jov ⟨.minus, 2000, none⟩),
    (⟨.plus, 62, 31, 1, 3, 39⟩, .jnov ⟨.plus, 3999, some .i1⟩),
    (⟨.minus, 0, 0, 2, 4, 39⟩, .jl ⟨.minus, 0, some .i2⟩),
    (⟨.plus, 63, 63, 3, 5, 39⟩, .je ⟨.plus, 4095, some .i3⟩),
    (⟨.minus, 0, 63, 4, 6, 39⟩, .jg ⟨.minus, 63, some .i4⟩),
    (⟨.plus, 1, 0, 5, 7, 39⟩, .jge ⟨.plus, 64, some .i5⟩),
    (⟨.minus, 1, 36, 6, 8, 39⟩, .jne ⟨.minus, 100, some .i6⟩),
    (⟨.plus, 31, 16, 0, 9, 39⟩, .jle ⟨.plus, 2000, none⟩)] = true := by decide

/-- One word of each instruction, bytes as R101 lays them out. -/
theorem test_decode_jumps_a_i1_i2 : decodesAll [
    (⟨.minus, 62, 31, 1, 0, 40⟩, .jan ⟨.minus, 3999, some .i1⟩),
    (⟨.plus, 0, 0, 2, 1, 40⟩, .jaz ⟨.plus, 0, some .i2⟩),
    (⟨.minus, 63, 63, 3, 2, 40⟩, .jap ⟨.minus, 4095, some .i3⟩),
    (⟨.plus, 0, 63, 4, 3, 40⟩, .jann ⟨.plus, 63, some .i4⟩),
    (⟨.minus, 1, 0, 5, 4, 40⟩, .janz ⟨.minus, 64, some .i5⟩),
    (⟨.plus, 1, 36, 6, 5, 40⟩, .janp ⟨.plus, 100, some .i6⟩),
    (⟨.minus, 31, 16, 0, 0, 41⟩, .j1n ⟨.minus, 2000, none⟩),
    (⟨.plus, 62, 31, 1, 1, 41⟩, .j1z ⟨.plus, 3999, some .i1⟩),
    (⟨.minus, 0, 0, 2, 2, 41⟩, .j1p ⟨.minus, 0, some .i2⟩),
    (⟨.plus, 63, 63, 3, 3, 41⟩, .j1nn ⟨.plus, 4095, some .i3⟩),
    (⟨.minus, 0, 63, 4, 4, 41⟩, .j1nz ⟨.minus, 63, some .i4⟩),
    (⟨.plus, 1, 0, 5, 5, 41⟩, .j1np ⟨.plus, 64, some .i5⟩),
    (⟨.minus, 1, 36, 6, 0, 42⟩, .j2n ⟨.minus, 100, some .i6⟩),
    (⟨.plus, 31, 16, 0, 1, 42⟩, .j2z ⟨.plus, 2000, none⟩),
    (⟨.minus, 62, 31, 1, 2, 42⟩, .j2p ⟨.minus, 3999, some .i1⟩),
    (⟨.plus, 0, 0, 2, 3, 42⟩, .j2nn ⟨.plus, 0, some .i2⟩),
    (⟨.minus, 63, 63, 3, 4, 42⟩, .j2nz ⟨.minus, 4095, some .i3⟩),
    (⟨.plus, 0, 63, 4, 5, 42⟩, .j2np ⟨.plus, 63, some .i4⟩)] = true := by decide

/-- One word of each instruction, bytes as R101 lays them out. -/
theorem test_decode_jumps_i3_i4_i5 : decodesAll [
    (⟨.minus, 1, 0, 5, 0, 43⟩, .j3n ⟨.minus, 64, some .i5⟩),
    (⟨.plus, 1, 36, 6, 1, 43⟩, .j3z ⟨.plus, 100, some .i6⟩),
    (⟨.minus, 31, 16, 0, 2, 43⟩, .j3p ⟨.minus, 2000, none⟩),
    (⟨.plus, 62, 31, 1, 3, 43⟩, .j3nn ⟨.plus, 3999, some .i1⟩),
    (⟨.minus, 0, 0, 2, 4, 43⟩, .j3nz ⟨.minus, 0, some .i2⟩),
    (⟨.plus, 63, 63, 3, 5, 43⟩, .j3np ⟨.plus, 4095, some .i3⟩),
    (⟨.minus, 0, 63, 4, 0, 44⟩, .j4n ⟨.minus, 63, some .i4⟩),
    (⟨.plus, 1, 0, 5, 1, 44⟩, .j4z ⟨.plus, 64, some .i5⟩),
    (⟨.minus, 1, 36, 6, 2, 44⟩, .j4p ⟨.minus, 100, some .i6⟩),
    (⟨.plus, 31, 16, 0, 3, 44⟩, .j4nn ⟨.plus, 2000, none⟩),
    (⟨.minus, 62, 31, 1, 4, 44⟩, .j4nz ⟨.minus, 3999, some .i1⟩),
    (⟨.plus, 0, 0, 2, 5, 44⟩, .j4np ⟨.plus, 0, some .i2⟩),
    (⟨.minus, 63, 63, 3, 0, 45⟩, .j5n ⟨.minus, 4095, some .i3⟩),
    (⟨.plus, 0, 63, 4, 1, 45⟩, .j5z ⟨.plus, 63, some .i4⟩),
    (⟨.minus, 1, 0, 5, 2, 45⟩, .j5p ⟨.minus, 64, some .i5⟩),
    (⟨.plus, 1, 36, 6, 3, 45⟩, .j5nn ⟨.plus, 100, some .i6⟩),
    (⟨.minus, 31, 16, 0, 4, 45⟩, .j5nz ⟨.minus, 2000, none⟩),
    (⟨.plus, 62, 31, 1, 5, 45⟩, .j5np ⟨.plus, 3999, some .i1⟩)] = true := by decide

/-- One word of each instruction, bytes as R101 lays them out. -/
theorem test_decode_jumps_i6_x : decodesAll [
    (⟨.minus, 0, 0, 2, 0, 46⟩, .j6n ⟨.minus, 0, some .i2⟩),
    (⟨.plus, 63, 63, 3, 1, 46⟩, .j6z ⟨.plus, 4095, some .i3⟩),
    (⟨.minus, 0, 63, 4, 2, 46⟩, .j6p ⟨.minus, 63, some .i4⟩),
    (⟨.plus, 1, 0, 5, 3, 46⟩, .j6nn ⟨.plus, 64, some .i5⟩),
    (⟨.minus, 1, 36, 6, 4, 46⟩, .j6nz ⟨.minus, 100, some .i6⟩),
    (⟨.plus, 31, 16, 0, 5, 46⟩, .j6np ⟨.plus, 2000, none⟩),
    (⟨.minus, 62, 31, 1, 0, 47⟩, .jxn ⟨.minus, 3999, some .i1⟩),
    (⟨.plus, 0, 0, 2, 1, 47⟩, .jxz ⟨.plus, 0, some .i2⟩),
    (⟨.minus, 63, 63, 3, 2, 47⟩, .jxp ⟨.minus, 4095, some .i3⟩),
    (⟨.plus, 0, 63, 4, 3, 47⟩, .jxnn ⟨.plus, 63, some .i4⟩),
    (⟨.minus, 1, 0, 5, 4, 47⟩, .jxnz ⟨.minus, 64, some .i5⟩),
    (⟨.plus, 1, 36, 6, 5, 47⟩, .jxnp ⟨.plus, 100, some .i6⟩)] = true := by decide

/-- One word of each instruction, bytes as R101 lays them out. -/
theorem test_decode_transfers_a_i1_i2_i3 : decodesAll [
    (⟨.minus, 31, 16, 0, 0, 48⟩, .inca ⟨.minus, 2000, none⟩),
    (⟨.plus, 62, 31, 1, 1, 48⟩, .deca ⟨.plus, 3999, some .i1⟩),
    (⟨.minus, 0, 0, 2, 2, 48⟩, .enta ⟨.minus, 0, some .i2⟩),
    (⟨.plus, 63, 63, 3, 3, 48⟩, .enna ⟨.plus, 4095, some .i3⟩),
    (⟨.minus, 0, 63, 4, 0, 49⟩, .inc1 ⟨.minus, 63, some .i4⟩),
    (⟨.plus, 1, 0, 5, 1, 49⟩, .dec1 ⟨.plus, 64, some .i5⟩),
    (⟨.minus, 1, 36, 6, 2, 49⟩, .ent1 ⟨.minus, 100, some .i6⟩),
    (⟨.plus, 31, 16, 0, 3, 49⟩, .enn1 ⟨.plus, 2000, none⟩),
    (⟨.minus, 62, 31, 1, 0, 50⟩, .inc2 ⟨.minus, 3999, some .i1⟩),
    (⟨.plus, 0, 0, 2, 1, 50⟩, .dec2 ⟨.plus, 0, some .i2⟩),
    (⟨.minus, 63, 63, 3, 2, 50⟩, .ent2 ⟨.minus, 4095, some .i3⟩),
    (⟨.plus, 0, 63, 4, 3, 50⟩, .enn2 ⟨.plus, 63, some .i4⟩),
    (⟨.minus, 1, 0, 5, 0, 51⟩, .inc3 ⟨.minus, 64, some .i5⟩),
    (⟨.plus, 1, 36, 6, 1, 51⟩, .dec3 ⟨.plus, 100, some .i6⟩),
    (⟨.minus, 31, 16, 0, 2, 51⟩, .ent3 ⟨.minus, 2000, none⟩),
    (⟨.plus, 62, 31, 1, 3, 51⟩, .enn3 ⟨.plus, 3999, some .i1⟩)] = true := by decide

/-- One word of each instruction, bytes as R101 lays them out. -/
theorem test_decode_transfers_i4_i5_i6_x : decodesAll [
    (⟨.minus, 0, 0, 2, 0, 52⟩, .inc4 ⟨.minus, 0, some .i2⟩),
    (⟨.plus, 63, 63, 3, 1, 52⟩, .dec4 ⟨.plus, 4095, some .i3⟩),
    (⟨.minus, 0, 63, 4, 2, 52⟩, .ent4 ⟨.minus, 63, some .i4⟩),
    (⟨.plus, 1, 0, 5, 3, 52⟩, .enn4 ⟨.plus, 64, some .i5⟩),
    (⟨.minus, 1, 36, 6, 0, 53⟩, .inc5 ⟨.minus, 100, some .i6⟩),
    (⟨.plus, 31, 16, 0, 1, 53⟩, .dec5 ⟨.plus, 2000, none⟩),
    (⟨.minus, 62, 31, 1, 2, 53⟩, .ent5 ⟨.minus, 3999, some .i1⟩),
    (⟨.plus, 0, 0, 2, 3, 53⟩, .enn5 ⟨.plus, 0, some .i2⟩),
    (⟨.minus, 63, 63, 3, 0, 54⟩, .inc6 ⟨.minus, 4095, some .i3⟩),
    (⟨.plus, 0, 63, 4, 1, 54⟩, .dec6 ⟨.plus, 63, some .i4⟩),
    (⟨.minus, 1, 0, 5, 2, 54⟩, .ent6 ⟨.minus, 64, some .i5⟩),
    (⟨.plus, 1, 36, 6, 3, 54⟩, .enn6 ⟨.plus, 100, some .i6⟩),
    (⟨.minus, 31, 16, 0, 0, 55⟩, .incx ⟨.minus, 2000, none⟩),
    (⟨.plus, 62, 31, 1, 1, 55⟩, .decx ⟨.plus, 3999, some .i1⟩),
    (⟨.minus, 0, 0, 2, 2, 55⟩, .entx ⟨.minus, 0, some .i2⟩),
    (⟨.plus, 63, 63, 3, 3, 55⟩, .ennx ⟨.plus, 4095, some .i3⟩)] = true := by decide

/-- One word of each instruction, bytes as R101 lays them out. -/
theorem test_decode_compares : decodesAll [
    (⟨.minus, 0, 63, 4, 0, 56⟩, .cmpa ⟨.minus, 63, some .i4⟩ ⟨0, 0⟩),
    (⟨.plus, 1, 0, 5, 13, 57⟩, .cmp1 ⟨.plus, 64, some .i5⟩ ⟨1, 5⟩),
    (⟨.minus, 1, 36, 6, 2, 58⟩, .cmp2 ⟨.minus, 100, some .i6⟩ ⟨0, 2⟩),
    (⟨.plus, 31, 16, 0, 37, 59⟩, .cmp3 ⟨.plus, 2000, none⟩ ⟨4, 5⟩),
    (⟨.minus, 62, 31, 1, 27, 60⟩, .cmp4 ⟨.minus, 3999, some .i1⟩ ⟨3, 3⟩),
    (⟨.plus, 0, 0, 2, 45, 61⟩, .cmp5 ⟨.plus, 0, some .i2⟩ ⟨5, 5⟩),
    (⟨.minus, 63, 63, 3, 20, 62⟩, .cmp6 ⟨.minus, 4095, some .i3⟩ ⟨2, 4⟩),
    (⟨.plus, 0, 63, 4, 5, 63⟩, .cmpx ⟨.plus, 63, some .i4⟩ ⟨0, 5⟩)] = true := by decide

/-! ## Steps: the example line of every rule, then the corners of the vectors -/

/-- The example lines of rules R202 to R209, each one step from PC = 100. -/
theorem test_examples_loads : [
    gives 100 (fun s => { s with mem := cells s.mem [(2000, w)] }) 0x1F4000C8 fun t => { t with a := ⟨.minus, 0, 0, 1, 2, 3⟩ },
    gives 100 (fun s => { s with mem := cells s.mem [(2000, w)] }) 0x1F400949 fun t => { t with i1 := ⟨.plus, 4, 5⟩ },
    gives 100 (fun s => { s with mem := cells s.mem [(2000, w)] }) 0x1F40094A fun t => { t with i2 := ⟨.plus, 4, 5⟩ },
    gives 100 (fun s => { s with mem := cells s.mem [(2000, w)] }) 0x1F40094B fun t => { t with i3 := ⟨.plus, 4, 5⟩ },
    gives 100 (fun s => { s with mem := cells s.mem [(2000, w)] }) 0x1F40094C fun t => { t with i4 := ⟨.plus, 4, 5⟩ },
    gives 100 (fun s => { s with mem := cells s.mem [(2000, w)] }) 0x1F40094D fun t => { t with i5 := ⟨.plus, 4, 5⟩ },
    gives 100 (fun s => { s with mem := cells s.mem [(2000, w)] }) 0x1F40094E fun t => { t with i6 := ⟨.plus, 4, 5⟩ },
    gives 100 (fun s => { s with mem := cells s.mem [(2000, w)] }) 0x1F4000CF fun t => { t with x := ⟨.minus, 0, 0, 1, 2, 3⟩ }].all id = true := by decide

/-- The example lines of rules R211 to R218, each one step from PC = 100. -/
theorem test_examples_negated_loads : [
    gives 100 (fun s => { s with mem := cells s.mem [(2000, w)] }) 0x1F400150 fun t => { t with a := ⟨.plus, 1, 2, 3, 4, 5⟩ },
    gives 100 (fun s => { s with mem := cells s.mem [(2000, w)] }) 0x1F400091 fun t => { t with i1 := ⟨.plus, 1, 2⟩ },
    gives 100 (fun s => { s with mem := cells s.mem [(2000, w)] }) 0x1F400092 fun t => { t with i2 := ⟨.plus, 1, 2⟩ },
    gives 100 (fun s => { s with mem := cells s.mem [(2000, w)] }) 0x1F400093 fun t => { t with i3 := ⟨.plus, 1, 2⟩ },
    gives 100 (fun s => { s with mem := cells s.mem [(2000, w)] }) 0x1F400094 fun t => { t with i4 := ⟨.plus, 1, 2⟩ },
    gives 100 (fun s => { s with mem := cells s.mem [(2000, w)] }) 0x1F400095 fun t => { t with i5 := ⟨.plus, 1, 2⟩ },
    gives 100 (fun s => { s with mem := cells s.mem [(2000, w)] }) 0x1F400096 fun t => { t with i6 := ⟨.plus, 1, 2⟩ },
    gives 100 (fun s => { s with mem := cells s.mem [(2000, w)] }) 0x1F400157 fun t => { t with x := ⟨.plus, 1, 2, 3, 4, 5⟩ }].all id = true := by decide

/-- The example lines of rules R221 to R230, each one step from PC = 100. -/
theorem test_examples_stores : [
    gives 100 (fun s => { s with a := ⟨.plus, 6, 7, 8, 9, 0⟩, mem := cells s.mem [(2000, w)] }) 0x1F4004D8 fun t => { t with mem := cells t.mem [(2000, ⟨.minus, 1, 9, 0, 4, 5⟩)] },
    gives 100 (fun s => { s with i1 := ⟨.minus, 10, 20⟩, mem := cells s.mem [(2000, w)] }) 0x1F4000D9 fun t => { t with mem := cells t.mem [(2000, ⟨.minus, 0, 10, 20, 4, 5⟩)] },
    gives 100 (fun s => { s with i2 := ⟨.minus, 10, 20⟩, mem := cells s.mem [(2000, w)] }) 0x1F4000DA fun t => { t with mem := cells t.mem [(2000, ⟨.minus, 0, 10, 20, 4, 5⟩)] },
    gives 100 (fun s => { s with i3 := ⟨.minus, 10, 20⟩, mem := cells s.mem [(2000, w)] }) 0x1F4000DB fun t => { t with mem := cells t.mem [(2000, ⟨.minus, 0, 10, 20, 4, 5⟩)] },
    gives 100 (fun s => { s with i4 := ⟨.minus, 10, 20⟩, mem := cells s.mem [(2000, w)] }) 0x1F4000DC fun t => { t with mem := cells t.mem [(2000, ⟨.minus, 0, 10, 20, 4, 5⟩)] },
    gives 100 (fun s => { s with i5 := ⟨.minus, 10, 20⟩, mem := cells s.mem [(2000, w)] }) 0x1F4000DD fun t => { t with mem := cells t.mem [(2000, ⟨.minus, 0, 10, 20, 4, 5⟩)] },
    gives 100 (fun s => { s with i6 := ⟨.minus, 10, 20⟩, mem := cells s.mem [(2000, w)] }) 0x1F4000DE fun t => { t with mem := cells t.mem [(2000, ⟨.minus, 0, 10, 20, 4, 5⟩)] },
    gives 100 (fun s => { s with x := ⟨.plus, 6, 7, 8, 9, 0⟩, mem := cells s.mem [(2000, w)] }) 0x1F40015F fun t => { t with mem := cells t.mem [(2000, ⟨.plus, 6, 7, 8, 9, 0⟩)] },
    gives 100 (fun s => { s with j := ⟨.plus, 1, 33⟩, mem := cells s.mem [(2000, w)] }) 0x1F4000A0 fun t => { t with mem := cells t.mem [(2000, ⟨.plus, 1, 33, 3, 4, 5⟩)] },
    gives 100 (fun s => { s with mem := cells s.mem [(2000, w)] }) 0x1F400321 fun t => { t with mem := cells t.mem [(2000, ⟨.minus, 0, 0, 0, 0, 5⟩)] },
    gives 100 (fun s => { s with mem := cells s.mem [(2000, w)] }) 0x1F400161 fun t => { t with mem := cells t.mem [(2000, ⟨.plus, 0, 0, 0, 0, 0⟩)] }].all id = true := by decide

/-- The example lines of rules R260 to R263, each one step from PC = 100. -/
theorem test_examples_arithmetic : [
    gives 100 (fun s => { s with a := ⟨.plus, 0, 0, 0, 1, 0⟩, mem := cells s.mem [(2000, ⟨.plus, 0, 0, 0, 0, 5⟩)] }) 0x1F400141 fun t => { t with a := ⟨.plus, 0, 0, 0, 1, 5⟩ },
    gives 100 (fun s => { s with a := ⟨.plus, 0, 0, 0, 0, 5⟩, mem := cells s.mem [(2000, ⟨.plus, 0, 0, 0, 0, 7⟩)] }) 0x1F400142 fun t => { t with a := ⟨.minus, 0, 0, 0, 0, 2⟩ },
    gives 100 (fun s => { s with a := ⟨.plus, 1, 1, 1, 1, 1⟩, mem := cells s.mem [(2000, ⟨.plus, 1, 1, 1, 1, 1⟩)] }) 0x1F400143 fun t => { t with a := ⟨.plus, 0, 1, 2, 3, 4⟩, x := ⟨.plus, 5, 4, 3, 2, 1⟩ },
    gives 100 (fun s => { s with a := ⟨.plus, 0, 0, 0, 0, 0⟩, x := ⟨.plus, 0, 0, 0, 0, 17⟩, mem := cells s.mem [(2000, ⟨.plus, 0, 0, 0, 0, 3⟩)] }) 0x1F400144 fun t => { t with a := ⟨.plus, 0, 0, 0, 0, 5⟩, x := ⟨.plus, 0, 0, 0, 0, 2⟩ }].all id = true := by decide

/-- The example lines of rules R302 to R305, each one step from PC = 100. -/
theorem test_examples_full_transfers : [
    gives 100 (fun s => { s with a := ⟨.plus, 0, 0, 0, 1, 36⟩ }) 0x00140030 fun t => { t with a := ⟨.plus, 0, 0, 0, 1, 41⟩ },
    gives 100 (fun s => { s with a := ⟨.plus, 0, 0, 0, 1, 36⟩ }) 0x00140070 fun t => { t with a := ⟨.plus, 0, 0, 0, 1, 31⟩ },
    gives 100 id 0x1F4000B0 fun t => { t with a := ⟨.plus, 0, 0, 0, 31, 16⟩ },
    gives 100 id 0x1F4000F0 fun t => { t with a := ⟨.minus, 0, 0, 0, 31, 16⟩ }].all id = true := by decide

/-- The example lines of rules R306 to R317, each one step from PC = 100. -/
theorem test_examples_index_transfers_1_3 : [
    gives 100 (fun s => { s with i1 := ⟨.plus, 1, 36⟩ }) 0x00140031 fun t => { t with i1 := ⟨.plus, 1, 41⟩ },
    gives 100 (fun s => { s with i1 := ⟨.plus, 1, 36⟩ }) 0x00140071 fun t => { t with i1 := ⟨.plus, 1, 31⟩ },
    gives 100 id 0x1F4000B1 fun t => { t with i1 := ⟨.plus, 31, 16⟩ },
    gives 100 id 0x1F4000F1 fun t => { t with i1 := ⟨.minus, 31, 16⟩ },
    gives 100 (fun s => { s with i2 := ⟨.plus, 1, 36⟩ }) 0x00140032 fun t => { t with i2 := ⟨.plus, 1, 41⟩ },
    gives 100 (fun s => { s with i2 := ⟨.plus, 1, 36⟩ }) 0x00140072 fun t => { t with i2 := ⟨.plus, 1, 31⟩ },
    gives 100 id 0x1F4000B2 fun t => { t with i2 := ⟨.plus, 31, 16⟩ },
    gives 100 id 0x1F4000F2 fun t => { t with i2 := ⟨.minus, 31, 16⟩ },
    gives 100 (fun s => { s with i3 := ⟨.plus, 1, 36⟩ }) 0x00140033 fun t => { t with i3 := ⟨.plus, 1, 41⟩ },
    gives 100 (fun s => { s with i3 := ⟨.plus, 1, 36⟩ }) 0x00140073 fun t => { t with i3 := ⟨.plus, 1, 31⟩ },
    gives 100 id 0x1F4000B3 fun t => { t with i3 := ⟨.plus, 31, 16⟩ },
    gives 100 id 0x1F4000F3 fun t => { t with i3 := ⟨.minus, 31, 16⟩ }].all id = true := by decide

/-- The example lines of rules R318 to R329, each one step from PC = 100. -/
theorem test_examples_index_transfers_4_6 : [
    gives 100 (fun s => { s with i4 := ⟨.plus, 1, 36⟩ }) 0x00140034 fun t => { t with i4 := ⟨.plus, 1, 41⟩ },
    gives 100 (fun s => { s with i4 := ⟨.plus, 1, 36⟩ }) 0x00140074 fun t => { t with i4 := ⟨.plus, 1, 31⟩ },
    gives 100 id 0x1F4000B4 fun t => { t with i4 := ⟨.plus, 31, 16⟩ },
    gives 100 id 0x1F4000F4 fun t => { t with i4 := ⟨.minus, 31, 16⟩ },
    gives 100 (fun s => { s with i5 := ⟨.plus, 1, 36⟩ }) 0x00140035 fun t => { t with i5 := ⟨.plus, 1, 41⟩ },
    gives 100 (fun s => { s with i5 := ⟨.plus, 1, 36⟩ }) 0x00140075 fun t => { t with i5 := ⟨.plus, 1, 31⟩ },
    gives 100 id 0x1F4000B5 fun t => { t with i5 := ⟨.plus, 31, 16⟩ },
    gives 100 id 0x1F4000F5 fun t => { t with i5 := ⟨.minus, 31, 16⟩ },
    gives 100 (fun s => { s with i6 := ⟨.plus, 1, 36⟩ }) 0x00140036 fun t => { t with i6 := ⟨.plus, 1, 41⟩ },
    gives 100 (fun s => { s with i6 := ⟨.plus, 1, 36⟩ }) 0x00140076 fun t => { t with i6 := ⟨.plus, 1, 31⟩ },
    gives 100 id 0x1F4000B6 fun t => { t with i6 := ⟨.plus, 31, 16⟩ },
    gives 100 id 0x1F4000F6 fun t => { t with i6 := ⟨.minus, 31, 16⟩ }].all id = true := by decide

/-- The example lines of rules R330 to R333, each one step from PC = 100. -/
theorem test_examples_x_transfers : [
    gives 100 (fun s => { s with x := ⟨.plus, 0, 0, 0, 1, 36⟩ }) 0x00140037 fun t => { t with x := ⟨.plus, 0, 0, 0, 1, 41⟩ },
    gives 100 (fun s => { s with x := ⟨.plus, 0, 0, 0, 1, 36⟩ }) 0x00140077 fun t => { t with x := ⟨.plus, 0, 0, 0, 1, 31⟩ },
    gives 100 id 0x1F4000B7 fun t => { t with x := ⟨.plus, 0, 0, 0, 31, 16⟩ },
    gives 100 id 0x1F4000F7 fun t => { t with x := ⟨.minus, 0, 0, 0, 31, 16⟩ }].all id = true := by decide

/-- The example lines of rules R341 to R348, each one step from PC = 100. -/
theorem test_examples_compares : [
    gives 100 (fun s => { s with a := ⟨.minus, 0, 0, 0, 0, 5⟩, mem := cells s.mem [(2000, ⟨.plus, 0, 0, 0, 0, 3⟩)] }) 0x1F400178 fun t => { t with ci := .less },
    gives 100 (fun s => { s with i1 := ⟨.minus, 0, 5⟩, mem := cells s.mem [(2000, ⟨.plus, 0, 0, 0, 0, 3⟩)] }) 0x1F400179 fun t => { t with ci := .less },
    gives 100 (fun s => { s with i2 := ⟨.minus, 0, 5⟩, mem := cells s.mem [(2000, ⟨.plus, 0, 0, 0, 0, 3⟩)] }) 0x1F40017A fun t => { t with ci := .less },
    gives 100 (fun s => { s with i3 := ⟨.minus, 0, 5⟩, mem := cells s.mem [(2000, ⟨.plus, 0, 0, 0, 0, 3⟩)] }) 0x1F40017B fun t => { t with ci := .less },
    gives 100 (fun s => { s with i4 := ⟨.minus, 0, 5⟩, mem := cells s.mem [(2000, ⟨.plus, 0, 0, 0, 0, 3⟩)] }) 0x1F40017C fun t => { t with ci := .less },
    gives 100 (fun s => { s with i5 := ⟨.minus, 0, 5⟩, mem := cells s.mem [(2000, ⟨.plus, 0, 0, 0, 0, 3⟩)] }) 0x1F40017D fun t => { t with ci := .less },
    gives 100 (fun s => { s with i6 := ⟨.minus, 0, 5⟩, mem := cells s.mem [(2000, ⟨.plus, 0, 0, 0, 0, 3⟩)] }) 0x1F40017E fun t => { t with ci := .less },
    gives 100 (fun s => { s with x := ⟨.minus, 0, 0, 0, 0, 5⟩, mem := cells s.mem [(2000, ⟨.plus, 0, 0, 0, 0, 3⟩)] }) 0x1F40017F fun t => { t with ci := .less }].all id = true := by decide

/-- The example lines of rules R363 to R372, each one step from PC = 100. -/
theorem test_examples_jumps : [
    gives 100 (fun s => { s with j := ⟨.plus, 0, 7⟩ }) 0x1F400027 fun t => { t with j := ⟨.plus, 1, 37⟩, pc := 2000 },
    gives 100 (fun s => { s with j := ⟨.plus, 0, 7⟩ }) 0x1F400067 fun t => { t with j := ⟨.plus, 0, 7⟩, pc := 2000 },
    gives 100 (fun s => { s with j := ⟨.plus, 0, 7⟩, ov := true }) 0x1F4000A7 fun t => { t with j := ⟨.plus, 1, 37⟩, pc := 2000, ov := false },
    gives 100 (fun s => { s with j := ⟨.plus, 0, 7⟩ }) 0x1F4000A7 fun t => { t with pc := 101 },
    gives 100 (fun s => { s with j := ⟨.plus, 0, 7⟩, ov := true }) 0x1F4000E7 fun t => { t with pc := 101 },
    gives 100 (fun s => { s with j := ⟨.plus, 0, 7⟩ }) 0x1F4000E7 fun t => { t with j := ⟨.plus, 1, 37⟩, pc := 2000 },
    gives 100 (fun s => { s with j := ⟨.plus, 0, 7⟩, ci := .less }) 0x1F400127 fun t => { t with j := ⟨.plus, 1, 37⟩, pc := 2000 },
    gives 100 (fun s => { s with j := ⟨.plus, 0, 7⟩, ci := .equal }) 0x1F400167 fun t => { t with j := ⟨.plus, 1, 37⟩, pc := 2000 },
    gives 100 (fun s => { s with j := ⟨.plus, 0, 7⟩, ci := .greater }) 0x1F4001A7 fun t => { t with j := ⟨.plus, 1, 37⟩, pc := 2000 },
    gives 100 (fun s => { s with j := ⟨.plus, 0, 7⟩, ci := .equal }) 0x1F4001E7 fun t => { t with j := ⟨.plus, 1, 37⟩, pc := 2000 },
    gives 100 (fun s => { s with j := ⟨.plus, 0, 7⟩, ci := .less }) 0x1F400227 fun t => { t with j := ⟨.plus, 1, 37⟩, pc := 2000 },
    gives 100 (fun s => { s with j := ⟨.plus, 0, 7⟩, ci := .less }) 0x1F400267 fun t => { t with j := ⟨.plus, 1, 37⟩, pc := 2000 }].all id = true := by decide

/-- The example lines of rules R373 to R384, each one step from PC = 100. -/
theorem test_examples_jumps_a_i1 : [
    gives 100 (fun s => { s with a := ⟨.minus, 0, 0, 0, 0, 5⟩, j := ⟨.plus, 0, 7⟩ }) 0x1F400028 fun t => { t with j := ⟨.plus, 1, 37⟩, pc := 2000 },
    gives 100 (fun s => { s with a := ⟨.plus, 0, 0, 0, 0, 0⟩, j := ⟨.plus, 0, 7⟩ }) 0x1F400068 fun t => { t with j := ⟨.plus, 1, 37⟩, pc := 2000 },
    gives 100 (fun s => { s with a := ⟨.plus, 0, 0, 0, 0, 5⟩, j := ⟨.plus, 0, 7⟩ }) 0x1F4000A8 fun t => { t with j := ⟨.plus, 1, 37⟩, pc := 2000 },
    gives 100 (fun s => { s with a := ⟨.plus, 0, 0, 0, 0, 0⟩, j := ⟨.plus, 0, 7⟩ }) 0x1F4000E8 fun t => { t with j := ⟨.plus, 1, 37⟩, pc := 2000 },
    gives 100 (fun s => { s with a := ⟨.minus, 0, 0, 0, 0, 5⟩, j := ⟨.plus, 0, 7⟩ }) 0x1F400128 fun t => { t with j := ⟨.plus, 1, 37⟩, pc := 2000 },
    gives 100 (fun s => { s with a := ⟨.minus, 0, 0, 0, 0, 0⟩, j := ⟨.plus, 0, 7⟩ }) 0x1F400168 fun t => { t with j := ⟨.plus, 1, 37⟩, pc := 2000 },
    gives 100 (fun s => { s with i1 := ⟨.minus, 0, 5⟩, j := ⟨.plus, 0, 7⟩ }) 0x1F400029 fun t => { t with j := ⟨.plus, 1, 37⟩, pc := 2000 },
    gives 100 (fun s => { s with i1 := ⟨.plus, 0, 0⟩, j := ⟨.plus, 0, 7⟩ }) 0x1F400069 fun t => { t with j := ⟨.plus, 1, 37⟩, pc := 2000 },
    gives 100 (fun s => { s with i1 := ⟨.plus, 0, 5⟩, j := ⟨.plus, 0, 7⟩ }) 0x1F4000A9 fun t => { t with j := ⟨.plus, 1, 37⟩, pc := 2000 },
    gives 100 (fun s => { s with i1 := ⟨.plus, 0, 0⟩, j := ⟨.plus, 0, 7⟩ }) 0x1F4000E9 fun t => { t with j := ⟨.plus, 1, 37⟩, pc := 2000 },
    gives 100 (fun s => { s with i1 := ⟨.minus, 0, 5⟩, j := ⟨.plus, 0, 7⟩ }) 0x1F400129 fun t => { t with j := ⟨.plus, 1, 37⟩, pc := 2000 },
    gives 100 (fun s => { s with i1 := ⟨.minus, 0, 0⟩, j := ⟨.plus, 0, 7⟩ }) 0x1F400169 fun t => { t with j := ⟨.plus, 1, 37⟩, pc := 2000 }].all id = true := by decide

/-- The example lines of rules R385 to R396, each one step from PC = 100. -/
theorem test_examples_jumps_i2_i3 : [
    gives 100 (fun s => { s with i2 := ⟨.minus, 0, 5⟩, j := ⟨.plus, 0, 7⟩ }) 0x1F40002A fun t => { t with j := ⟨.plus, 1, 37⟩, pc := 2000 },
    gives 100 (fun s => { s with i2 := ⟨.plus, 0, 0⟩, j := ⟨.plus, 0, 7⟩ }) 0x1F40006A fun t => { t with j := ⟨.plus, 1, 37⟩, pc := 2000 },
    gives 100 (fun s => { s with i2 := ⟨.plus, 0, 5⟩, j := ⟨.plus, 0, 7⟩ }) 0x1F4000AA fun t => { t with j := ⟨.plus, 1, 37⟩, pc := 2000 },
    gives 100 (fun s => { s with i2 := ⟨.plus, 0, 0⟩, j := ⟨.plus, 0, 7⟩ }) 0x1F4000EA fun t => { t with j := ⟨.plus, 1, 37⟩, pc := 2000 },
    gives 100 (fun s => { s with i2 := ⟨.minus, 0, 5⟩, j := ⟨.plus, 0, 7⟩ }) 0x1F40012A fun t => { t with j := ⟨.plus, 1, 37⟩, pc := 2000 },
    gives 100 (fun s => { s with i2 := ⟨.minus, 0, 0⟩, j := ⟨.plus, 0, 7⟩ }) 0x1F40016A fun t => { t with j := ⟨.plus, 1, 37⟩, pc := 2000 },
    gives 100 (fun s => { s with i3 := ⟨.minus, 0, 5⟩, j := ⟨.plus, 0, 7⟩ }) 0x1F40002B fun t => { t with j := ⟨.plus, 1, 37⟩, pc := 2000 },
    gives 100 (fun s => { s with i3 := ⟨.plus, 0, 0⟩, j := ⟨.plus, 0, 7⟩ }) 0x1F40006B fun t => { t with j := ⟨.plus, 1, 37⟩, pc := 2000 },
    gives 100 (fun s => { s with i3 := ⟨.plus, 0, 5⟩, j := ⟨.plus, 0, 7⟩ }) 0x1F4000AB fun t => { t with j := ⟨.plus, 1, 37⟩, pc := 2000 },
    gives 100 (fun s => { s with i3 := ⟨.plus, 0, 0⟩, j := ⟨.plus, 0, 7⟩ }) 0x1F4000EB fun t => { t with j := ⟨.plus, 1, 37⟩, pc := 2000 },
    gives 100 (fun s => { s with i3 := ⟨.minus, 0, 5⟩, j := ⟨.plus, 0, 7⟩ }) 0x1F40012B fun t => { t with j := ⟨.plus, 1, 37⟩, pc := 2000 },
    gives 100 (fun s => { s with i3 := ⟨.minus, 0, 0⟩, j := ⟨.plus, 0, 7⟩ }) 0x1F40016B fun t => { t with j := ⟨.plus, 1, 37⟩, pc := 2000 }].all id = true := by decide

/-- The example lines of rules R397 to R408, each one step from PC = 100. -/
theorem test_examples_jumps_i4_i5 : [
    gives 100 (fun s => { s with i4 := ⟨.minus, 0, 5⟩, j := ⟨.plus, 0, 7⟩ }) 0x1F40002C fun t => { t with j := ⟨.plus, 1, 37⟩, pc := 2000 },
    gives 100 (fun s => { s with i4 := ⟨.plus, 0, 0⟩, j := ⟨.plus, 0, 7⟩ }) 0x1F40006C fun t => { t with j := ⟨.plus, 1, 37⟩, pc := 2000 },
    gives 100 (fun s => { s with i4 := ⟨.plus, 0, 5⟩, j := ⟨.plus, 0, 7⟩ }) 0x1F4000AC fun t => { t with j := ⟨.plus, 1, 37⟩, pc := 2000 },
    gives 100 (fun s => { s with i4 := ⟨.plus, 0, 0⟩, j := ⟨.plus, 0, 7⟩ }) 0x1F4000EC fun t => { t with j := ⟨.plus, 1, 37⟩, pc := 2000 },
    gives 100 (fun s => { s with i4 := ⟨.minus, 0, 5⟩, j := ⟨.plus, 0, 7⟩ }) 0x1F40012C fun t => { t with j := ⟨.plus, 1, 37⟩, pc := 2000 },
    gives 100 (fun s => { s with i4 := ⟨.minus, 0, 0⟩, j := ⟨.plus, 0, 7⟩ }) 0x1F40016C fun t => { t with j := ⟨.plus, 1, 37⟩, pc := 2000 },
    gives 100 (fun s => { s with i5 := ⟨.minus, 0, 5⟩, j := ⟨.plus, 0, 7⟩ }) 0x1F40002D fun t => { t with j := ⟨.plus, 1, 37⟩, pc := 2000 },
    gives 100 (fun s => { s with i5 := ⟨.plus, 0, 0⟩, j := ⟨.plus, 0, 7⟩ }) 0x1F40006D fun t => { t with j := ⟨.plus, 1, 37⟩, pc := 2000 },
    gives 100 (fun s => { s with i5 := ⟨.plus, 0, 5⟩, j := ⟨.plus, 0, 7⟩ }) 0x1F4000AD fun t => { t with j := ⟨.plus, 1, 37⟩, pc := 2000 },
    gives 100 (fun s => { s with i5 := ⟨.plus, 0, 0⟩, j := ⟨.plus, 0, 7⟩ }) 0x1F4000ED fun t => { t with j := ⟨.plus, 1, 37⟩, pc := 2000 },
    gives 100 (fun s => { s with i5 := ⟨.minus, 0, 5⟩, j := ⟨.plus, 0, 7⟩ }) 0x1F40012D fun t => { t with j := ⟨.plus, 1, 37⟩, pc := 2000 },
    gives 100 (fun s => { s with i5 := ⟨.minus, 0, 0⟩, j := ⟨.plus, 0, 7⟩ }) 0x1F40016D fun t => { t with j := ⟨.plus, 1, 37⟩, pc := 2000 }].all id = true := by decide

/-- The example lines of rules R409 to R420, each one step from PC = 100. -/
theorem test_examples_jumps_i6_x : [
    gives 100 (fun s => { s with i6 := ⟨.minus, 0, 5⟩, j := ⟨.plus, 0, 7⟩ }) 0x1F40002E fun t => { t with j := ⟨.plus, 1, 37⟩, pc := 2000 },
    gives 100 (fun s => { s with i6 := ⟨.plus, 0, 0⟩, j := ⟨.plus, 0, 7⟩ }) 0x1F40006E fun t => { t with j := ⟨.plus, 1, 37⟩, pc := 2000 },
    gives 100 (fun s => { s with i6 := ⟨.plus, 0, 5⟩, j := ⟨.plus, 0, 7⟩ }) 0x1F4000AE fun t => { t with j := ⟨.plus, 1, 37⟩, pc := 2000 },
    gives 100 (fun s => { s with i6 := ⟨.plus, 0, 0⟩, j := ⟨.plus, 0, 7⟩ }) 0x1F4000EE fun t => { t with j := ⟨.plus, 1, 37⟩, pc := 2000 },
    gives 100 (fun s => { s with i6 := ⟨.minus, 0, 5⟩, j := ⟨.plus, 0, 7⟩ }) 0x1F40012E fun t => { t with j := ⟨.plus, 1, 37⟩, pc := 2000 },
    gives 100 (fun s => { s with i6 := ⟨.minus, 0, 0⟩, j := ⟨.plus, 0, 7⟩ }) 0x1F40016E fun t => { t with j := ⟨.plus, 1, 37⟩, pc := 2000 },
    gives 100 (fun s => { s with x := ⟨.minus, 0, 0, 0, 0, 5⟩, j := ⟨.plus, 0, 7⟩ }) 0x1F40002F fun t => { t with j := ⟨.plus, 1, 37⟩, pc := 2000 },
    gives 100 (fun s => { s with x := ⟨.plus, 0, 0, 0, 0, 0⟩, j := ⟨.plus, 0, 7⟩ }) 0x1F40006F fun t => { t with j := ⟨.plus, 1, 37⟩, pc := 2000 },
    gives 100 (fun s => { s with x := ⟨.plus, 0, 0, 0, 0, 5⟩, j := ⟨.plus, 0, 7⟩ }) 0x1F4000AF fun t => { t with j := ⟨.plus, 1, 37⟩, pc := 2000 },
    gives 100 (fun s => { s with x := ⟨.plus, 0, 0, 0, 0, 0⟩, j := ⟨.plus, 0, 7⟩ }) 0x1F4000EF fun t => { t with j := ⟨.plus, 1, 37⟩, pc := 2000 },
    gives 100 (fun s => { s with x := ⟨.minus, 0, 0, 0, 0, 5⟩, j := ⟨.plus, 0, 7⟩ }) 0x1F40012F fun t => { t with j := ⟨.plus, 1, 37⟩, pc := 2000 },
    gives 100 (fun s => { s with x := ⟨.minus, 0, 0, 0, 0, 0⟩, j := ⟨.plus, 0, 7⟩ }) 0x1F40016F fun t => { t with j := ⟨.plus, 1, 37⟩, pc := 2000 }].all id = true := by decide

/-- The example lines of rules R441 to R450, each one step from PC = 100. -/
theorem test_examples_shifts_and_move : [
    gives 100 (fun s => { s with a := up, x := down }) 0x00080006 fun t => { t with a := ⟨.plus, 3, 4, 5, 0, 0⟩, x := ⟨.minus, 6, 7, 8, 9, 10⟩ },
    gives 100 (fun s => { s with a := up, x := down }) 0x00080046 fun t => { t with a := ⟨.plus, 0, 0, 1, 2, 3⟩, x := ⟨.minus, 6, 7, 8, 9, 10⟩ },
    gives 100 (fun s => { s with a := up, x := down }) 0x00080086 fun t => { t with a := ⟨.plus, 3, 4, 5, 6, 7⟩, x := ⟨.minus, 8, 9, 10, 0, 0⟩ },
    gives 100 (fun s => { s with a := up, x := down }) 0x000800C6 fun t => { t with a := ⟨.plus, 0, 0, 1, 2, 3⟩, x := ⟨.minus, 4, 5, 6, 7, 8⟩ },
    gives 100 (fun s => { s with a := up, x := down }) 0x00080106 fun t => { t with a := ⟨.plus, 3, 4, 5, 6, 7⟩, x := ⟨.minus, 8, 9, 10, 1, 2⟩ },
    gives 100 (fun s => { s with a := up, x := down }) 0x00080146 fun t => { t with a := ⟨.plus, 9, 10, 1, 2, 3⟩, x := ⟨.minus, 4, 5, 6, 7, 8⟩ },
    gives 100 (fun s => { s with i1 := ⟨.plus, 31, 16⟩, mem := cells s.mem [(1000, ⟨.plus, 0, 0, 0, 0, 1⟩), (1001, ⟨.plus, 0, 0, 0, 0, 2⟩), (1002, ⟨.plus, 0, 0, 0, 0, 3⟩)] }) 0x0FA000C7 fun t => { t with i1 := ⟨.plus, 31, 19⟩, mem := cells t.mem [(2000, ⟨.plus, 0, 0, 0, 0, 1⟩), (2001, ⟨.plus, 0, 0, 0, 0, 2⟩), (2002, ⟨.plus, 0, 0, 0, 0, 3⟩)] }].all id = true := by decide

/-- The example lines of rules R460 to R468, each one step from PC = 100. -/
theorem test_examples_control : [
    gives 100 id 0x00000000 id,
    gives 100 id 0x00000085 fun t => { t with halt := true },
    faults 100 id 0x00000005 (.invalidOpcode (320)),
    faults 100 id 0x00000045 (.invalidOpcode (321)),
    faults 100 id 0x1F4004A2 (.noDevice (18)),
    faults 100 id 0x00000423 (.noDevice (16)),
    faults 100 id 0x0FA00424 (.noDevice (16)),
    faults 100 id 0x0FA004A5 (.noDevice (18)),
    faults 100 id 0x1F4004A6 (.noDevice (18))].all id = true := by decide

/-- Vectors T25, T26, T27, T30, T31, T28, T29 of 95_test_vectors.md (30_encoding.md R110 to R112). -/
theorem test_effective_address : [
    gives 100 (fun s => { s with i3 := ⟨.plus, 0, 5⟩, mem := cells s.mem [(2005, ⟨.plus, 0, 0, 0, 0, 9⟩)] }) 0x1F403148 fun t => { t with a := ⟨.plus, 0, 0, 0, 0, 9⟩ },
    gives 100 (fun s => { s with i3 := ⟨.minus, 0, 5⟩, mem := cells s.mem [(1995, ⟨.plus, 0, 0, 0, 0, 9⟩)] }) 0x1F403148 fun t => { t with a := ⟨.plus, 0, 0, 0, 0, 9⟩ },
    gives 100 (fun s => { s with i2 := ⟨.plus, 0, 10⟩ }) 0x40142148 id,
    gives 100 id 0x3FFC00B0 fun t => { t with a := ⟨.plus, 0, 0, 0, 63, 63⟩ },
    gives 100 (fun s => { s with i6 := ⟨.plus, 63, 63⟩ }) 0x3FFC60B0 fun t => { t with a := ⟨.plus, 0, 0, 1, 63, 62⟩ },
    faults 100 id 0x40040148 (.addressOutOfRange (-1)),
    faults 100 (fun s => { s with i1 := ⟨.plus, 0, 1⟩ }) 0x3E7C1148 (.addressOutOfRange (4000))].all id = true := by decide

/-- Vectors T32, T33, T34, T35, T36, T37, T38, T39, T40, T41, T42, T44, T203, T204 of
95_test_vectors.md (30_encoding.md R106, 60_exceptions.md R503, R504 and R511). -/
theorem test_illegal_words : [
    faults 100 id 0x00047148 (.invalidIndex (7)),
    faults 100 id 0x0007F148 (.invalidIndex (63)),
    faults 100 id 0x1F400188 (.invalidFieldSpec (6)),
    faults 100 id 0x1F400448 (.invalidFieldSpec (17)),
    faults 100 id 0x1F400FC1 (.invalidFieldSpec (63)),
    faults 100 id 0x1F4002A7 (.invalidFieldSpec (10)),
    faults 100 id 0x1F4001A8 (.invalidFieldSpec (6)),
    faults 100 id 0x00140130 (.invalidFieldSpec (4)),
    faults 100 id 0x00040186 (.invalidFieldSpec (6)),
    faults 100 id 0x000000C5 (.invalidFieldSpec (3)),
    faults 100 id 0x1F400160 (.invalidFieldSpec (5)),
    faults 100 id 0x00009FC5 (.invalidIndex (9)),
    faults 100 id 0x00007005 (.invalidIndex (7)),
    faults 100 id 0x00000245 (.invalidFieldSpec (9))].all id = true := by decide

/-- Vectors T46, T48, T49, T52, T53, T54, T56, T57, T58, T205, T207 of
95_test_vectors.md (40_load_store.md R200 to R218). -/
theorem test_load_corners : [
    gives 100 (fun s => { s with mem := cells s.mem [(2000, w)] }) 0x1F400348 fun t => { t with a := ⟨.plus, 1, 2, 3, 4, 5⟩ },
    gives 100 (fun s => { s with mem := cells s.mem [(2000, w)] }) 0x1F400008 fun t => { t with a := ⟨.minus, 0, 0, 0, 0, 0⟩ },
    gives 100 (fun s => { s with mem := cells s.mem [(2000, w)] }) 0x1F400010 id,
    gives 100 (fun s => { s with mem := cells s.mem [(2000, w)] }) 0x1F40008A fun t => { t with i2 := ⟨.minus, 1, 2⟩ },
    faults 100 (fun s => { s with mem := cells s.mem [(2000, w)] }) 0x1F4000CB (.indexValueOutOfRange (-4227)),
    gives 100 (fun s => { s with mem := cells s.mem [(2000, ⟨.minus, 0, 0, 0, 0, 0⟩)] }) 0x1F40014C fun t => { t with i4 := ⟨.minus, 0, 0⟩ },
    gives 100 (fun s => { s with mem := cells s.mem [(2000, ⟨.plus, 0, 0, 0, 63, 63⟩)] }) 0x1F400156 fun t => { t with i6 := ⟨.minus, 63, 63⟩ },
    faults 100 (fun s => { s with mem := cells s.mem [(2000, ⟨.plus, 0, 0, 1, 0, 0⟩)] }) 0x1F40014E (.indexValueOutOfRange (4096)),
    gives 100 (fun s => { s with i1 := ⟨.minus, 0, 4⟩ }) 0x00101149 fun t => { t with i1 := ⟨.plus, 0, 0⟩ },
    faults 100 id 0x3E800149 (.addressOutOfRange (4000)),
    faults 100 (fun s => { s with i1 := ⟨.plus, 31, 16⟩, mem := cells s.mem [(2000, ⟨.plus, 0, 0, 1, 0, 0⟩)] }) 0x00001149 (.indexValueOutOfRange (4096))].all id = true := by decide

/-- Vectors T61, T62, T63, T64, T65, T66, T70, T71 of 95_test_vectors.md (40_load_store.md R220 to R230). -/
theorem test_store_corners : [
    gives 100 (fun s => { s with a := ⟨.plus, 6, 7, 8, 9, 10⟩, mem := cells s.mem [(2000, w)] }) 0x1F400B58 fun t => { t with mem := cells t.mem [(2000, ⟨.minus, 1, 2, 3, 4, 10⟩)] },
    gives 100 (fun s => { s with a := ⟨.plus, 6, 7, 8, 9, 10⟩, mem := cells s.mem [(2000, w)] }) 0x1F400018 fun t => { t with mem := cells t.mem [(2000, ⟨.plus, 1, 2, 3, 4, 5⟩)] },
    gives 100 (fun s => { s with x := ⟨.minus, 6, 7, 8, 9, 10⟩, mem := cells s.mem [(2000, ⟨.plus, 1, 2, 3, 4, 5⟩)] }) 0x1F40005F fun t => { t with mem := cells t.mem [(2000, ⟨.minus, 10, 2, 3, 4, 5⟩)] },
    gives 100 (fun s => { s with i2 := ⟨.minus, 7, 8⟩, mem := cells s.mem [(2000, ⟨.plus, 1, 2, 3, 4, 5⟩)] }) 0x1F40015A fun t => { t with mem := cells t.mem [(2000, ⟨.minus, 0, 0, 0, 7, 8⟩)] },
    gives 100 (fun s => { s with i2 := ⟨.minus, 7, 8⟩, mem := cells s.mem [(2000, ⟨.plus, 1, 2, 3, 4, 5⟩)] }) 0x1F40025A fun t => { t with mem := cells t.mem [(2000, ⟨.plus, 8, 2, 3, 4, 5⟩)] },
    gives 100 (fun s => { s with i6 := ⟨.plus, 0, 63⟩, mem := cells s.mem [(2000, w)] }) 0x1F40095E fun t => { t with mem := cells t.mem [(2000, ⟨.minus, 1, 2, 3, 0, 63⟩)] },
    faults 100 (fun s => { s with a := ⟨.plus, 1, 1, 1, 1, 1⟩ }) 0x3E800158 (.addressOutOfRange (4000)),
    gives 100 (fun s => { s with a := ⟨.plus, 1, 1, 1, 1, 1⟩ }) 0x01900158 fun t => { t with mem := cells t.mem [(100, ⟨.plus, 1, 1, 1, 1, 1⟩)] }].all id = true := by decide

/-- Vectors T74, T75, T76, T77, T78, T80, T82, T83, T84, T86, T87, T88, T89, T90, T91 of
95_test_vectors.md (41_arithmetic.md R260 to R264). -/
theorem test_arithmetic_corners : [
    gives 100 (fun s => { s with a := ⟨.minus, 0, 0, 0, 1, 36⟩, mem := cells s.mem [(2000, ⟨.plus, 0, 0, 0, 1, 36⟩)] }) 0x1F400141 fun t => { t with a := ⟨.minus, 0, 0, 0, 0, 0⟩ },
    gives 100 (fun s => { s with a := ⟨.plus, 0, 0, 0, 1, 36⟩, mem := cells s.mem [(2000, ⟨.plus, 0, 0, 0, 1, 36⟩)] }) 0x1F400142 fun t => { t with a := ⟨.plus, 0, 0, 0, 0, 0⟩ },
    gives 100 (fun s => { s with a := ⟨.plus, 63, 63, 63, 63, 63⟩, mem := cells s.mem [(2000, ⟨.plus, 63, 63, 63, 63, 63⟩)] }) 0x1F400141 fun t => { t with a := ⟨.plus, 63, 63, 63, 63, 62⟩, ov := true },
    gives 100 (fun s => { s with a := ⟨.minus, 63, 63, 63, 63, 63⟩, mem := cells s.mem [(2000, ⟨.plus, 0, 0, 0, 0, 5⟩)] }) 0x1F400142 fun t => { t with a := ⟨.minus, 0, 0, 0, 0, 4⟩, ov := true },
    gives 100 (fun s => { s with a := ⟨.plus, 0, 0, 0, 0, 5⟩, ov := true, mem := cells s.mem [(2000, ⟨.plus, 0, 0, 0, 0, 5⟩)] }) 0x1F400141 fun t => { t with a := ⟨.plus, 0, 0, 0, 0, 10⟩ },
    gives 100 (fun s => { s with a := ⟨.plus, 0, 0, 0, 0, 1⟩, mem := cells s.mem [(2000, w)] }) 0x1F400042 fun t => { t with a := ⟨.plus, 0, 0, 0, 0, 2⟩ },
    gives 100 (fun s => { s with a := ⟨.minus, 0, 0, 0, 0, 3⟩, mem := cells s.mem [(2000, ⟨.plus, 0, 0, 0, 0, 4⟩)] }) 0x1F400143 fun t => { t with a := ⟨.minus, 0, 0, 0, 0, 0⟩, x := ⟨.minus, 0, 0, 0, 0, 12⟩ },
    gives 100 (fun s => { s with a := ⟨.plus, 63, 63, 63, 63, 63⟩, mem := cells s.mem [(2000, ⟨.plus, 63, 63, 63, 63, 63⟩)] }) 0x1F400143 fun t => { t with a := ⟨.plus, 63, 63, 63, 63, 62⟩, x := ⟨.plus, 0, 0, 0, 0, 1⟩ },
    gives 100 (fun s => { s with a := ⟨.minus, 0, 0, 0, 0, 5⟩ }) 0x1F400143 fun t => { t with a := ⟨.minus, 0, 0, 0, 0, 0⟩, x := ⟨.minus, 0, 0, 0, 0, 0⟩ },
    gives 100 (fun s => { s with x := ⟨.plus, 0, 0, 0, 0, 17⟩, mem := cells s.mem [(2000, ⟨.minus, 0, 0, 0, 0, 5⟩)] }) 0x1F400144 fun t => { t with a := ⟨.minus, 0, 0, 0, 0, 3⟩, x := ⟨.plus, 0, 0, 0, 0, 2⟩ },
    gives 100 (fun s => { s with a := ⟨.minus, 0, 0, 0, 0, 0⟩, x := ⟨.plus, 0, 0, 0, 0, 17⟩, mem := cells s.mem [(2000, ⟨.plus, 0, 0, 0, 0, 5⟩)] }) 0x1F400144 fun t => { t with a := ⟨.minus, 0, 0, 0, 0, 3⟩, x := ⟨.minus, 0, 0, 0, 0, 2⟩ },
    gives 100 (fun s => { s with a := ⟨.plus, 0, 0, 0, 0, 1⟩, mem := cells s.mem [(2000, ⟨.plus, 0, 0, 0, 0, 2⟩)] }) 0x1F400144 fun t => { t with a := ⟨.plus, 32, 0, 0, 0, 0⟩ },
    gives 100 (fun s => { s with a := ⟨.plus, 0, 0, 0, 0, 5⟩, mem := cells s.mem [(2000, ⟨.plus, 0, 0, 0, 0, 5⟩)] }) 0x1F400144 fun t => { t with ov := true },
    gives 100 id 0x1F400144 fun t => { t with ov := true },
    faults 100 id 0x3E800141 (.addressOutOfRange (4000))].all id = true := by decide

/-- Vectors T93, T94, T95, T96, T97, T98, T99, T100, T101, T102, T104, T105, T106, T107 of
95_test_vectors.md (42_address_transfer.md R300 to R333). -/
theorem test_transfer_corners : [
    gives 100 (fun s => { s with a := ⟨.plus, 0, 0, 0, 0, 10⟩ }) 0x003C0070 fun t => { t with a := ⟨.minus, 0, 0, 0, 0, 5⟩ },
    gives 100 (fun s => { s with a := ⟨.minus, 0, 0, 0, 0, 10⟩ }) 0x00280030 fun t => { t with a := ⟨.minus, 0, 0, 0, 0, 0⟩ },
    gives 100 (fun s => { s with a := ⟨.plus, 63, 63, 63, 63, 63⟩ }) 0x00040030 fun t => { t with a := ⟨.plus, 0, 0, 0, 0, 0⟩, ov := true },
    gives 100 (fun s => { s with i1 := ⟨.plus, 62, 32⟩ }) 0x01900031 fun t => { t with i1 := ⟨.plus, 0, 4⟩, ov := true },
    gives 100 (fun s => { s with i1 := ⟨.minus, 62, 32⟩ }) 0x01900071 fun t => { t with i1 := ⟨.minus, 0, 4⟩, ov := true },
    gives 100 (fun s => { s with i1 := ⟨.plus, 0, 7⟩ }) 0x00001031 fun t => { t with i1 := ⟨.plus, 0, 14⟩ },
    gives 100 (fun s => { s with x := ⟨.plus, 0, 0, 0, 0, 3⟩ }) 0x400C0077 fun t => { t with x := ⟨.plus, 0, 0, 0, 0, 6⟩ },
    gives 100 id 0x400000B0 fun t => { t with a := ⟨.minus, 0, 0, 0, 0, 0⟩ },
    gives 100 id 0x000000F0 fun t => { t with a := ⟨.minus, 0, 0, 0, 0, 0⟩ },
    gives 100 (fun s => { s with i2 := ⟨.plus, 3, 8⟩ }) 0x432020B3 fun t => { t with i3 := ⟨.minus, 0, 0⟩ },
    faults 100 (fun s => { s with i2 := ⟨.plus, 3, 8⟩ }) 0x3E8020F1 (.indexValueOutOfRange (-4200)),
    gives 100 id 0x3FFC00B6 fun t => { t with i6 := ⟨.plus, 63, 63⟩ },
    gives 100 (fun s => { s with i4 := ⟨.plus, 0, 5⟩ }) 0x000040F4 fun t => { t with i4 := ⟨.minus, 0, 5⟩ },
    gives 100 (fun s => { s with i5 := ⟨.plus, 0, 1⟩ }) 0x00040075 fun t => { t with i5 := ⟨.plus, 0, 0⟩ }].all id = true := by decide

/-- Vectors T110, T111, T112, T113, T114, T115, T118, T119, T120 of
95_test_vectors.md (43_compare.md R340 to R348). -/
theorem test_compare_corners : [
    gives 100 (fun s => { s with a := ⟨.plus, 0, 0, 0, 0, 7⟩, mem := cells s.mem [(2000, ⟨.plus, 0, 0, 0, 0, 7⟩)] }) 0x1F400178 fun t => { t with ci := .equal },
    gives 100 (fun s => { s with a := ⟨.plus, 0, 0, 0, 0, 8⟩, mem := cells s.mem [(2000, ⟨.plus, 0, 0, 0, 0, 7⟩)] }) 0x1F400178 fun t => { t with ci := .greater },
    gives 100 (fun s => { s with a := ⟨.minus, 0, 0, 0, 0, 0⟩ }) 0x1F400178 fun t => { t with ci := .equal },
    gives 100 (fun s => { s with a := ⟨.minus, 0, 0, 0, 0, 5⟩, mem := cells s.mem [(2000, ⟨.plus, 0, 0, 0, 0, 3⟩)] }) 0x1F400038 fun t => { t with ci := .equal },
    gives 100 (fun s => { s with a := ⟨.minus, 9, 9, 9, 9, 1⟩, mem := cells s.mem [(2000, ⟨.plus, 0, 0, 0, 0, 2⟩)] }) 0x1F400B78 fun t => { t with ci := .less },
    gives 100 (fun s => { s with x := ⟨.plus, 1, 2, 3, 4, 5⟩, mem := cells s.mem [(2000, ⟨.plus, 1, 2, 0, 0, 0⟩)] }) 0x1F4002BF fun t => { t with ci := .equal },
    gives 100 (fun s => { s with i6 := ⟨.plus, 1, 2⟩, mem := cells s.mem [(2000, ⟨.plus, 0, 0, 0, 9, 2⟩)] }) 0x1F400B7E fun t => { t with ci := .equal },
    gives 100 (fun s => { s with i2 := ⟨.plus, 1, 2⟩ }) 0x1F4002FA fun t => { t with ci := .equal },
    faults 100 (fun s => { s with ci := .less }) 0x3E800178 (.addressOutOfRange (4000))].all id = true := by decide

/-- Vectors T122, T127, T132, T135, T137, T138, T139, T140, T142, T144, T145, T148, T155, T158 of
95_test_vectors.md (44_jumps.md R360 to R420). -/
theorem test_jump_corners : [
    gives 100 (fun s => { s with j := ⟨.plus, 0, 55⟩ }) 0x04B00067 fun t => { t with pc := 300 },
    gives 100 id 0x04B00227 id,
    gives 100 (fun s => { s with ci := .less }) 0x04B001E7 id,
    gives 100 (fun s => { s with ci := .equal }) 0x04B00227 id,
    gives 100 (fun s => { s with ci := .greater }) 0x04B00267 id,
    faults 100 id 0x3E800027 (.addressOutOfRange (4000)),
    gives 100 (fun s => { s with ci := .greater }) 0x3E800127 id,
    gives 3999 id 0x3E7C0027 fun t => { t with j := ⟨.plus, 62, 32⟩, pc := 3999 },
    gives 100 (fun s => { s with i4 := ⟨.plus, 0, 50⟩ }) 0x03E84027 fun t => { t with j := ⟨.plus, 1, 37⟩, pc := 300 },
    gives 100 (fun s => { s with a := ⟨.minus, 0, 0, 0, 0, 0⟩ }) 0x04B00028 id,
    gives 100 (fun s => { s with a := ⟨.minus, 0, 0, 0, 0, 0⟩ }) 0x04B00068 fun t => { t with j := ⟨.plus, 1, 37⟩, pc := 300 },
    gives 100 id 0x04B00128 id,
    gives 100 (fun s => { s with i6 := ⟨.plus, 0, 1⟩ }) 0x04B0016E id,
    gives 100 id 0x00001069 fun t => { t with j := ⟨.plus, 1, 37⟩, pc := 0 }].all id = true := by decide

/-- Vectors T161, T162, T164, T167, T168, T170, T172, T173, T174, T175 of
95_test_vectors.md (45_shift_move.md R440 to R446). -/
theorem test_shift_corners : [
    gives 100 (fun s => { s with a := up, x := down }) 0x00140006 id,
    gives 100 (fun s => { s with a := up, x := down }) 0x001C0006 fun t => { t with a := ⟨.plus, 3, 4, 5, 0, 0⟩ },
    gives 100 (fun s => { s with a := up, x := down }) 0x00000046 id,
    gives 100 (fun s => { s with a := up, x := down }) 0x00340086 fun t => { t with a := ⟨.plus, 4, 5, 6, 7, 8⟩, x := ⟨.minus, 9, 10, 0, 0, 0⟩ },
    gives 100 (fun s => { s with a := up, x := down }) 0x001800C6 fun t => { t with a := ⟨.plus, 0, 0, 0, 0, 0⟩, x := ⟨.minus, 0, 1, 2, 3, 4⟩ },
    gives 100 (fun s => { s with a := up, x := down }) 0x00240106 fun t => { t with a := ⟨.plus, 10, 1, 2, 3, 4⟩, x := ⟨.minus, 5, 6, 7, 8, 9⟩ },
    gives 100 (fun s => { s with a := up, x := down }) 0x002C0146 fun t => { t with a := ⟨.plus, 10, 1, 2, 3, 4⟩, x := ⟨.minus, 5, 6, 7, 8, 9⟩ },
    faults 100 (fun s => { s with a := up, x := down }) 0x40040006 (.invalidShiftCount (-1)),
    faults 100 (fun s => { s with a := up, x := down, i1 := ⟨.minus, 0, 3⟩ }) 0x00041146 (.invalidShiftCount (-2)),
    gives 100 (fun s => { s with a := up, x := down, i2 := ⟨.plus, 0, 2⟩ }) 0x00002106 fun t => { t with a := ⟨.plus, 3, 4, 5, 6, 7⟩, x := ⟨.minus, 8, 9, 10, 1, 2⟩ }].all id = true := by decide

/-- Vectors T43, T178, T179, T181, T182, T183, T184, T185, T186, T208 of
95_test_vectors.md (45_shift_move.md R450). -/
theorem test_move_corners : [
    gives 100 id 0x00000FC7 fun t => { t with i1 := ⟨.plus, 0, 63⟩ },
    gives 100 (fun s => { s with i1 := ⟨.plus, 15, 41⟩, mem := cells s.mem [(1000, ⟨.plus, 0, 0, 0, 0, 11⟩), (1001, ⟨.plus, 0, 0, 0, 0, 22⟩), (1002, ⟨.plus, 0, 0, 0, 0, 33⟩), (1003, ⟨.plus, 0, 0, 0, 0, 44⟩)] }) 0x0FA000C7 fun t => { t with i1 := ⟨.plus, 15, 44⟩, mem := cells t.mem [(1001, ⟨.plus, 0, 0, 0, 0, 11⟩), (1002, ⟨.plus, 0, 0, 0, 0, 22⟩), (1003, ⟨.plus, 0, 0, 0, 0, 33⟩)] },
    gives 100 (fun s => { s with i1 := ⟨.plus, 15, 39⟩, mem := cells s.mem [(1000, ⟨.plus, 0, 0, 0, 0, 11⟩), (1001, ⟨.plus, 0, 0, 0, 0, 22⟩), (1002, ⟨.plus, 0, 0, 0, 0, 33⟩), (1003, ⟨.plus, 0, 0, 0, 0, 44⟩)] }) 0x0FA000C7 fun t => { t with i1 := ⟨.plus, 15, 42⟩, mem := cells t.mem [(999, ⟨.plus, 0, 0, 0, 0, 11⟩), (1000, ⟨.plus, 0, 0, 0, 0, 22⟩), (1001, ⟨.plus, 0, 0, 0, 0, 33⟩)] },
    gives 100 (fun s => { s with i1 := ⟨.minus, 0, 7⟩, mem := cells s.mem [(1000, ⟨.plus, 0, 0, 0, 0, 11⟩), (1001, ⟨.plus, 0, 0, 0, 0, 22⟩), (1002, ⟨.plus, 0, 0, 0, 0, 33⟩), (1003, ⟨.plus, 0, 0, 0, 0, 44⟩)] }) 0x3FE80007 id,
    faults 100 (fun s => { s with i1 := ⟨.plus, 31, 16⟩ }) 0x3E7800C7 (.addressOutOfRange (4000)),
    faults 100 (fun s => { s with i1 := ⟨.plus, 31, 16⟩ }) 0x40040047 (.addressOutOfRange (-1)),
    faults 100 (fun s => { s with i1 := ⟨.plus, 62, 31⟩, mem := cells s.mem [(1000, ⟨.plus, 0, 0, 0, 0, 11⟩), (1001, ⟨.plus, 0, 0, 0, 0, 22⟩), (1002, ⟨.plus, 0, 0, 0, 0, 33⟩), (1003, ⟨.plus, 0, 0, 0, 0, 44⟩)] }) 0x0FA00087 (.addressOutOfRange (4000)),
    faults 100 (fun s => { s with i1 := ⟨.minus, 0, 1⟩, mem := cells s.mem [(1000, ⟨.plus, 0, 0, 0, 0, 11⟩), (1001, ⟨.plus, 0, 0, 0, 0, 22⟩), (1002, ⟨.plus, 0, 0, 0, 0, 33⟩), (1003, ⟨.plus, 0, 0, 0, 0, 44⟩)] }) 0x0FA00047 (.addressOutOfRange (-1)),
    gives 100 (fun s => { s with i1 := ⟨.plus, 62, 29⟩, mem := cells s.mem [(1000, ⟨.plus, 0, 0, 0, 0, 11⟩), (1001, ⟨.plus, 0, 0, 0, 0, 22⟩), (1002, ⟨.plus, 0, 0, 0, 0, 33⟩), (1003, ⟨.plus, 0, 0, 0, 0, 44⟩)] }) 0x0FA000C7 fun t => { t with i1 := ⟨.plus, 62, 32⟩, mem := cells t.mem [(3997, ⟨.plus, 0, 0, 0, 0, 11⟩), (3998, ⟨.plus, 0, 0, 0, 0, 22⟩), (3999, ⟨.plus, 0, 0, 0, 0, 33⟩)] },
    faults 100 (fun s => { s with i1 := ⟨.plus, 62, 31⟩ }) 0x3E800087 (.addressOutOfRange (4000))].all id = true := by decide

/-- Vectors T188, T189, T191, T199 of 95_test_vectors.md (46_control_io.md R460, R464, 60_exceptions.md R515). -/
theorem test_control_corners : [
    gives 100 (fun s => { s with i6 := ⟨.plus, 63, 63⟩ }) 0x3FFC6FC0 id,
    faults 100 id 0x00007000 (.invalidIndex (7)),
    gives 100 (fun s => { s with halt := true }) 0x00000000 fun t => { t with pc := 100 },
    faults 100 id 0x3E800022 (.noDevice (0))].all id = true := by decide

/-! ## The codec and the field unit (vectors E1 to E4 and T1 to T24) -/

theorem test_compose :
    compose 1 2 3 4 5 .minus = w ∧ w.enc = 0x41083105 ∧ (compose 63 63 63 63 63 .plus).enc = 0x3FFFFFFF ∧
      (compose 0 0 0 0 0 .minus).enc = 0x40000000 ∧ compose 64 1 2 3 70 .plus = ⟨.plus, 0, 1, 2, 3, 0⟩ ∧
      (compose 63 0 64 255 1 .minus).enc = 0x7F000001 ∧ compose (-1) 0 0 0 7 .plus = ⟨.plus, 0, 0, 0, 0, 7⟩ := by decide

theorem test_decompose :
    decompose w = ((1, 2, 3, 4, 5), .minus) ∧ decompose (Word.ofEnc 0x40000000) = ((0, 0, 0, 0, 0), .minus) ∧
      decompose (Word.ofEnc 0x3FFFFFFF) = ((63, 63, 63, 63, 63), .plus) ∧ w.val = -17314053 ∧ w.signum = -1 := ⟨rfl, rfl, rfl, rfl, rfl⟩

theorem test_negate :
    negate ⟨.plus, 0, 0, 0, 0, 7⟩ = ⟨.minus, 0, 0, 0, 0, 7⟩ ∧ negate .zero = Word.ofEnc 0x40000000 ∧ negate w = up := by
  decide

theorem test_field_views :
    fieldView w ⟨0, 0⟩ = ⟨.minus, 0, 0, 0, 0, 0⟩ ∧ fieldView w ⟨0, 2⟩ = ⟨.minus, 0, 0, 0, 1, 2⟩ ∧
      fieldView w ⟨0, 5⟩ = w ∧ fieldView w ⟨1, 2⟩ = ⟨.plus, 0, 0, 0, 1, 2⟩ ∧
      fieldView w ⟨3, 5⟩ = ⟨.plus, 0, 0, 3, 4, 5⟩ ∧ fieldView w ⟨5, 5⟩ = ⟨.plus, 0, 0, 0, 0, 5⟩ ∧
      fieldView ⟨.minus, 10, 20, 30, 40, 50⟩ ⟨1, 5⟩ = ⟨.plus, 10, 20, 30, 40, 50⟩ ∧
      fieldView ⟨.minus, 10, 20, 30, 40, 50⟩ ⟨0, 1⟩ = ⟨.minus, 0, 0, 0, 0, 10⟩ ∧
      fieldView ⟨.minus, 10, 20, 30, 40, 50⟩ ⟨2, 3⟩ = ⟨.plus, 0, 0, 0, 20, 30⟩ := by decide

theorem test_field_writes :
    applyField w ⟨0, 5⟩ ⟨.plus, 6, 7, 8, 9, 10⟩ = ⟨.plus, 6, 7, 8, 9, 10⟩ ∧
      applyField w ⟨1, 5⟩ ⟨.plus, 6, 7, 8, 9, 10⟩ = ⟨.minus, 6, 7, 8, 9, 10⟩ ∧
      applyField w ⟨0, 0⟩ ⟨.plus, 6, 7, 8, 9, 10⟩ = up ∧
      applyField w ⟨0, 2⟩ ⟨.plus, 6, 7, 8, 9, 10⟩ = ⟨.plus, 9, 10, 3, 4, 5⟩ ∧
      applyField w ⟨3, 3⟩ ⟨.plus, 6, 7, 8, 9, 10⟩ = ⟨.minus, 1, 2, 10, 4, 5⟩ ∧
      applyField w ⟨1, 2⟩ ⟨.plus, 6, 7, 8, 9, 10⟩ = ⟨.minus, 9, 10, 3, 4, 5⟩ ∧
      applyField up ⟨0, 5⟩ (pad ⟨.minus, 7, 8⟩) = ⟨.minus, 0, 0, 0, 7, 8⟩ := by decide

/-- T24, and the sign-magnitude codes of R501 and R51. -/
theorem test_codes :
    FieldSpec.code ⟨1, 3⟩ = 11 ∧ FieldSpec.code ⟨0, 5⟩ = 5 ∧ FieldSpec.code ⟨5, 5⟩ = 45 ∧ decodeField 17 = none ∧
      [Status.ok, .halted, .invalidIndex, .invalidFieldSpec, .invalidOpcode, .addressOutOfRange, .indexValueOutOfRange,
        .invalidShiftCount, .noDevice].map Status.code = [0, 1, 2, 3, 4, 5, 6, 7, 8] ∧
      [Indicator.unset, .less, .equal, .greater].map Indicator.code = [0, 1, 2, 3] := by decide

/-! ## Host operations (vectors T209 to T217) and the two functions of the host's check -/

theorem test_reset_bounds :
    (Session.initial.perform (.reset 3999 [])).2 = ⟨State.resetAt 3999, false⟩ ∧
      (Session.initial.perform (.reset 4000 [])).1 = .refused (.startOutOfRange 4000) ∧
      (Session.initial.perform (.reset 0 [18])).1 = .refused .devicesNotSupported := by decide

theorem test_load_and_query :
    ((Session.initial.perform (.load 2000 up)).2.perform (.queryCell 2000)).1 = .word up ∧
      (Session.initial.perform (.load 4000 .zero)).1 = .refused (.loadOutOfRange 4000) ∧
      (Session.initial.perform (.queryCell 4000)).1 = .refused (.queryOutOfRange 4000) ∧
      ((Session.initial.perform .step).2.perform (.load 2000 .zero)).1 = .refused .loadAfterStep := by decide

theorem test_queries :
    Session.initial.perform (.queryReg (.index .i3)) = (.half .zero, Session.initial) ∧
      Session.initial.perform (.queryReg .jump) = (.half .zero, Session.initial) ∧
      Session.initial.perform (.queryReg (.full .x)) = (.word .zero, Session.initial) ∧
      Session.initial.perform .queryCi = (.indicator .unset, Session.initial) ∧
      Session.initial.perform .queryHalt = (.flag false, Session.initial) ∧
      Session.initial.perform .queryOv = (.flag false, Session.initial) ∧
      Session.initial.perform .queryPc = (.pc Config.start, Session.initial) := by decide

/-- T215: a halted machine answers HALTED until reset. -/
theorem test_halted_until_reset :
    let c : Session := ⟨{ State.resetAt 101 with halt := true, mem := [(100, Word.ofEnc 0x85)] }, true⟩
    c.perform .step = (.status .halted 0, c) ∧
      ((c.perform (.reset 100 [])).2.perform .step).1 = .status .ok 0 := by decide

/-- `ENT1 4095` numbered as the table numbers it, LDA with index 7, and a number that is no 31-bit word. -/
theorem test_table_words :
    decodeTableWord 32 0x3FFC00B1 = some (.ent1 ⟨.plus, 4095, none⟩) ∧ decodeTableWord 32 0x00047148 = none ∧
      decodeTableWord 31 0x400000B0 = some (.enta ⟨.minus, 0, none⟩) ∧ decodeTableWord 32 0x80000000 = none ∧
      decodeTableWord 6 0x00 = some (.nop ⟨.plus, 0, none⟩ 0) := by decide

theorem test_fetch_word_runs_first :
    step (State.reset.withFetchWord 32 0x3FFC00B1) =
      exec (.ent1 ⟨.plus, 4095, none⟩) (State.reset.withFetchWord 32 0x3FFC00B1) := by rfl

theorem test_fetch_word_from_a_stopped_machine :
    step ({ State.reset with pc := 4000, halt := true }.withFetchWord 32 0xB0) =
      .next { ({ State.reset with pc := 4000, halt := true }.withFetchWord 32 0xB0) with pc := Config.start + 1 } := by
  rfl


/-! ## Witnesses: for every statement with hypotheses, a state and operands that meet them together -/

/-- An address field without an index, of either sign. -/
def pos (n : BitVec 12) : Addr := ⟨.plus, n, none⟩
def neg (n : BitVec 12) : Addr := ⟨.minus, n, none⟩

/-- A state with data in it. -/
def base : State :=
  { State.resetAt 100 with
    a := ⟨.minus, 0, 0, 0, 0, 5⟩
    x := ⟨.plus, 0, 0, 0, 0, 9⟩
    i1 := ⟨.plus, 0, 3⟩
    mem := [(0, w), (2000, w), (3999, up)] }

/-- Bytes at both ends, both signs of a word. -/
theorem witness_DecomposeReadsBackCompose :
    (0 ≤ 63 ∧ 63 ≤ 63) ∧ up.sign = .plus ∧ w.sign = .minus := by decide

/-- Kept bytes at 0 and 63, replaced bytes at -1 and 64, the largest encoding. -/
theorem witness_ComposeAndEncodingAreExact :
    ((0 : Int) ≤ 0 ∧ (63 : Int) ≤ 63) ∧ ((-1 : Int) < 0 ∧ (63 : Int) < 64) ∧ 0x7FFFFFFF < 2 ^ 31 := by decide

/-- The whole word (L = 0), the last byte (L > 0), the sign only. -/
theorem witness_FieldViewTakesItsBytes :
    legalField ⟨0, 5⟩ ∧ legalField ⟨5, 5⟩ ∧ legalField ⟨0, 0⟩ ∧ legalField ⟨2, 3⟩ := by
  unfold legalField
  decide

/-- The whole word, the last byte, the sign only; a byte outside and one inside the field. -/
theorem witness_FieldWriteReplacesItsBytes :
    legalField ⟨0, 5⟩ ∧ legalField ⟨5, 5⟩ ∧ legalField ⟨0, 0⟩ ∧ legalField ⟨2, 3⟩ := by
  unfold legalField
  decide

/-- The whole word (L = 0), the last byte (L > 0), the sign only. -/
theorem witness_FieldSelfCopyChangesNothing :
    legalField ⟨0, 5⟩ ∧ legalField ⟨5, 5⟩ ∧ legalField ⟨0, 0⟩ ∧ legalField ⟨2, 3⟩ := by
  unfold legalField
  decide

/-- A step that writes J, from a positive J. -/
theorem witness_JumpRegisterWriteForcesPlus :
    base.j.sign = .plus ∧ step (before 100 id 0x04B00027) = .next { before 100 id 0x04B00027 with pc := 300, j := ⟨.plus, 1, 37⟩ } := ⟨by decide, by rfl⟩

/-- Well-formed instructions of the three kinds of F. -/
theorem witness_EncodeThenDecodeIsIdentity :
    (Instr.lda (neg 0) ⟨0, 5⟩).WellFormed ∧ (Instr.move (pos 4095) 63).WellFormed ∧ (Instr.jle (pos 0)).WellFormed := by decide

/-- Accepted words: all zeros, and one with every field at its end. -/
theorem witness_DecodeThenEncodeIsIdentity :
    decode .zero = .ok (.nop (pos 0) 0) ∧
      decode ⟨.minus, 63, 63, 6, 45, 63⟩ = .ok (.cmpx ⟨.minus, 4095, some .i6⟩ ⟨5, 5⟩) := by decide

/-- Index bytes 7 and 63 in words and at PC; accepted ones 0 and 6. -/
theorem witness_IndexByteAboveSixIsRejected :
    (6 < (⟨.plus, 0, 1, 7, 5, 8⟩ : Word).b3.toNat ∧ 6 < (⟨.plus, 0, 1, 63, 63, 5⟩ : Word).b3.toNat) ∧
      (let s := before 100 id 0x0007F148;
        s.halt = false ∧ s.pc.toNat < 4000 ∧ 6 < (s.mem.read s.pc.toNat).b3.toNat) ∧
      decode ⟨.plus, 0, 1, 0, 5, 8⟩ = .ok (.lda (pos 1) ⟨0, 5⟩) ∧
      decode ⟨.plus, 0, 1, 6, 5, 8⟩ = .ok (.lda ⟨.plus, 1, some .i6⟩ ⟨0, 5⟩) := by decide

/-- The four clauses: index 7 (with a bad F as well); F = 10 of opcode 39; NUM and CHAR; the legal HLT and F = 9 of opcode 39. -/
theorem witness_IllegalWordsFaultInOrder :
    6 < (⟨.plus, 0, 0, 7, 63, 5⟩ : Word).b3.toNat ∧ ¬ 6 < (⟨.plus, 0, 0, 6, 10, 39⟩ : Word).b3.toNat ∧ ¬ legalF 39 10 ∧
      (5 = 5 ∧ 1 ≤ 1) ∧ legalF 5 2 ∧ ¬ (5 = 5 ∧ 2 ≤ 1) ∧ legalF 39 9 ∧ ¬ legalF 8 6 ∧ legalF 8 45 ∧ ¬ legalF 32 5 ∧
      (before 3999 id 0x00007FC5).halt = false ∧ (before 3999 id 0x00007FC5).pc.toNat < 4000 := by
  unfold legalF
  decide

/-- A running machine at the last address, with the word of HLT there. -/
theorem witness_StepRunsTheDecodedInstruction :
    let s := before 3999 id 0x00000085
    s.halt = false ∧ s.pc.toNat < 4000 ∧ decode (s.mem.read s.pc.toNat) = .ok (.hlt (pos 0)) ∧
      (Instr.hlt (pos 0)).WellFormed ∧ s.mem.read s.pc.toNat = encode (.hlt (pos 0)) := by decide

/-- A halted machine; running ones at 4000 and 4095. -/
theorem witness_HaltedOrOutsideMemoryNothingIsFetched :
    { base with halt := true }.halt = true ∧ ({ base with pc := 4000 } : State).halt = false ∧
      4000 ≤ (4000 : BitVec 12).toNat ∧ 4000 ≤ (4095 : BitVec 12).toNat := by decide

/-- No index, and each end of the index registers. -/
theorem witness_EffectiveAddressRule :
    (pos 0).index = none ∧ (⟨.plus, 0, some .i1⟩ : Addr).index = some .i1 ∧ (⟨.plus, 0, some .i6⟩ : Addr).index = some .i6 := by decide

/-- Legal fields; addresses at both ends of memory, and just outside them. -/
theorem witness_LoadFullRegister :
    legalField ⟨0, 5⟩ ∧ legalField ⟨5, 5⟩ ∧ legalField ⟨0, 0⟩ ∧ addresses (pos 0) base 0 ∧ addresses (pos 3999) base 3999 ∧
      outside (pos 4000) base ∧ outside (neg 1) base := by
  unfold legalField addresses outside
  decide

/-- Legal fields; addresses at both ends of memory, and just outside them. -/
theorem witness_AddAndSubtract :
    legalField ⟨0, 5⟩ ∧ legalField ⟨5, 5⟩ ∧ legalField ⟨0, 0⟩ ∧ addresses (pos 0) base 0 ∧ addresses (pos 3999) base 3999 ∧
      outside (pos 4000) base ∧ outside (neg 1) base := by
  unfold legalField addresses outside
  decide

/-- Legal fields; addresses at both ends of memory, and just outside them. -/
theorem witness_MultiplyGivesTheDoubleProduct :
    legalField ⟨0, 5⟩ ∧ legalField ⟨5, 5⟩ ∧ legalField ⟨0, 0⟩ ∧ addresses (pos 0) base 0 ∧ addresses (pos 3999) base 3999 ∧
      outside (pos 4000) base ∧ outside (neg 1) base := by
  unfold legalField addresses outside
  decide

/-- Legal fields; addresses at both ends of memory, and just outside them. -/
theorem witness_CompareSetsTheIndicator :
    legalField ⟨0, 5⟩ ∧ legalField ⟨5, 5⟩ ∧ legalField ⟨0, 0⟩ ∧ addresses (pos 0) base 0 ∧ addresses (pos 3999) base 3999 ∧
      outside (pos 4000) base ∧ outside (neg 1) base := by
  unfold legalField addresses outside
  decide

/-- As LoadFullRegister, with a view of 4095 that fits and one of 4096 that does not. -/
theorem witness_LoadIndexRegister :
    legalField ⟨0, 5⟩ ∧ legalField ⟨5, 5⟩ ∧ legalField ⟨0, 0⟩ ∧ addresses (pos 0) base 0 ∧ addresses (pos 3999) base 3999 ∧
      outside (pos 4000) base ∧ outside (neg 1) base ∧
      viewMag ⟨.plus, 0, 0, 0, 63, 63⟩ ⟨0, 5⟩ < 4096 ∧ 4096 ≤ viewMag ⟨.plus, 0, 0, 1, 0, 0⟩ ⟨0, 5⟩ := by
  unfold legalField addresses outside
  decide

/-- A canonical memory, legal fields; addresses at both ends of memory, and just outside them. -/
theorem witness_StoreFullRegister :
    base.mem.wf = true ∧ legalField ⟨0, 5⟩ ∧ legalField ⟨5, 5⟩ ∧ legalField ⟨0, 0⟩ ∧ addresses (pos 0) base 0 ∧ addresses (pos 3999) base 3999 ∧
      outside (pos 4000) base ∧ outside (neg 1) base := by
  unfold legalField addresses outside
  decide

/-- A canonical memory, legal fields; addresses at both ends of memory, and just outside them. -/
theorem witness_StoreIndexRegister :
    base.mem.wf = true ∧ legalField ⟨0, 5⟩ ∧ legalField ⟨5, 5⟩ ∧ legalField ⟨0, 0⟩ ∧ addresses (pos 0) base 0 ∧ addresses (pos 3999) base 3999 ∧
      outside (pos 4000) base ∧ outside (neg 1) base := by
  unfold legalField addresses outside
  decide

/-- A canonical memory, legal fields; addresses at both ends of memory, and just outside them. -/
theorem witness_StoreZero :
    base.mem.wf = true ∧ legalField ⟨0, 5⟩ ∧ legalField ⟨5, 5⟩ ∧ legalField ⟨0, 0⟩ ∧ addresses (pos 0) base 0 ∧ addresses (pos 3999) base 3999 ∧
      outside (pos 4000) base ∧ outside (neg 1) base := by
  unfold legalField addresses outside
  decide

/-- A word of opcode 32 with F = 5; a canonical memory, a positive J, addresses at both ends and just outside. -/
theorem witness_StoreJumpRegister :
    ((⟨.plus, 0, 0, 6, 5, 32⟩ : Word).b5 = 32 ∧ (⟨.plus, 0, 0, 6, 5, 32⟩ : Word).b3.toNat ≤ 6 ∧
      (⟨.plus, 0, 0, 6, 5, 32⟩ : Word).b4 ≠ 2) ∧ base.mem.wf = true ∧ base.j.sign = .plus ∧
      addresses (pos 0) base 0 ∧ addresses (pos 3999) base 3999 ∧ outside (pos 4000) base ∧ outside (neg 1) base := by
  unfold addresses outside
  decide

/-- A zero divisor, the smallest quotient that does not fit, the largest that does. -/
theorem witness_DivideGivesQuotientAndRemainder :
    legalField ⟨0, 5⟩ ∧ legalField ⟨5, 5⟩ ∧ legalField ⟨0, 0⟩ ∧ addresses (pos 0) base 0 ∧ addresses (pos 3999) base 3999 ∧
      outside (pos 4000) base ∧ outside (neg 1) base ∧
      viewMag .zero ⟨0, 5⟩ = 0 ∧ 2 ^ 30 ≤ (3 * 2 ^ 30 + 9) / viewMag ⟨.plus, 0, 0, 0, 0, 3⟩ ⟨0, 5⟩ ∧
      (2 * 2 ^ 30 + (2 ^ 30 - 1)) / viewMag ⟨.plus, 0, 0, 0, 0, 3⟩ ⟨0, 5⟩ < 2 ^ 30 := by
  unfold legalField addresses outside
  decide

/-- Sums of exactly 2^30 and 2^12, differences of exactly -2^30 and -2^12, a division by zero. -/
theorem witness_OverflowIsNoFault :
    let s := { base with a := ⟨.plus, 63, 63, 63, 63, 63⟩, i2 := ⟨.plus, 63, 63⟩, mem := [(2000, ⟨.plus, 0, 0, 0, 0, 1⟩)] }
    let r := { s with a := ⟨.minus, 63, 63, 63, 63, 63⟩, i2 := ⟨.minus, 63, 63⟩ }
    s.halt = false ∧ legalField ⟨0, 5⟩ ∧ addresses (pos 2000) s 2000 ∧
      2 ^ 30 ≤ (signed s.a.sign s.a.mag + viewVal (s.mem.read 2000) ⟨0, 5⟩).natAbs ∧
      2 ^ 30 ≤ (signed r.a.sign r.a.mag - viewVal (r.mem.read 2000) ⟨0, 5⟩).natAbs ∧ viewMag (s.mem.read 0) ⟨0, 5⟩ = 0 ∧
      2 ^ 30 ≤ (signed (s.full .a).sign (s.full .a).mag + (ea (pos 1) s).val).natAbs ∧
      2 ^ 30 ≤ (signed (r.full .a).sign (r.full .a).mag - (ea (pos 1) r).val).natAbs ∧
      2 ^ 12 ≤ (signed (s.index .i2).sign (s.index .i2).mag + (ea (pos 1) s).val).natAbs ∧
      2 ^ 12 ≤ (signed (r.index .i2).sign (r.index .i2).mag - (ea (pos 1) r).val).natAbs := by
  unfold legalField addresses
  decide

/-- |ea| = 4095 and 4096. -/
theorem witness_EnterIndexRegister :
    (ea (neg 4095) base).val.natAbs < 4096 ∧
      4096 ≤ (ea ⟨.plus, 4095, some .i1⟩ { base with i1 := ⟨.plus, 0, 1⟩ }).val.natAbs := by decide

/-- PC inside memory; targets at both ends and just outside. -/
theorem witness_UnconditionalJumps :
    base.pc.toNat < 4000 ∧ ({ base with pc := 3999 } : State).pc.toNat < 4000 ∧ ¬ outside (pos 0) base ∧ ¬ outside (pos 3999) base ∧
      outside (pos 4000) base ∧ outside (neg 1) base := by
  unfold outside
  decide

/-- As UnconditionalJumps, with OV = 0 and OV = 1. -/
theorem witness_OverflowJumps :
    base.pc.toNat < 4000 ∧ ({ base with pc := 3999 } : State).pc.toNat < 4000 ∧ ¬ outside (pos 0) base ∧ ¬ outside (pos 3999) base ∧
      outside (pos 4000) base ∧ outside (neg 1) base ∧
      base.ov = false ∧ ({ base with ov := true } : State).ov = true := by
  unfold outside
  decide

/-- As UnconditionalJumps, in each of the four values of CI. -/
theorem witness_ComparisonJumps :
    base.pc.toNat < 4000 ∧ ({ base with pc := 3999 } : State).pc.toNat < 4000 ∧ ¬ outside (pos 0) base ∧ ¬ outside (pos 3999) base ∧
      outside (pos 4000) base ∧ outside (neg 1) base ∧
      base.ci = .unset ∧ ({ base with ci := .less } : State).ci = .less ∧ ({ base with ci := .equal } : State).ci = .equal ∧
      ({ base with ci := .greater } : State).ci = .greater := by
  unfold outside
  decide

/-- As UnconditionalJumps; each condition met and not met, at -0, 1 and -1. -/
theorem witness_RegisterJumps :
    base.pc.toNat < 4000 ∧ ({ base with pc := 3999 } : State).pc.toNat < 4000 ∧ ¬ outside (pos 0) base ∧ ¬ outside (pos 3999) base ∧
      outside (pos 4000) base ∧ outside (neg 1) base ∧
      condition .n (-1) ∧ ¬ condition .n (signed .minus 0) ∧ condition .z (signed .minus 0) ∧ ¬ condition .z 1 ∧ condition .p 1 ∧
      ¬ condition .p 0 ∧ condition .nn 0 ∧ ¬ condition .nn (-1) ∧ condition .nz (-1) ∧ ¬ condition .nz 0 ∧ condition .np 0 ∧
      ¬ condition .np 1 := by
  unfold outside condition
  decide

/-- Counts 0 and 4095, byte positions at both ends, and the count -1. -/
theorem witness_ShiftsOfA :
    (ea (pos 0) base).val = (0 : Nat) ∧ (ea (pos 4095) base).val = (4095 : Nat) ∧ (1 ≤ 1 ∧ 1 ≤ 5 ∧ 10 ≤ 10) ∧
      (ea (neg 1) base).val < 0 := by decide

/-- Counts 0 and 4095, byte positions at both ends, and the count -1. -/
theorem witness_ShiftsOfAX :
    (ea (pos 0) base).val = (0 : Nat) ∧ (ea (pos 4095) base).val = (4095 : Nat) ∧ (1 ≤ 1 ∧ 1 ≤ 5 ∧ 10 ≤ 10) ∧
      (ea (neg 1) base).val < 0 := by decide

/-- Count 0; a run of 63 that ends at the last word, from the first, and back. -/
theorem witness_MoveCopiesTheRun :
    base.mem.wf = true ∧ (0 : Byte) = 0 ∧ (63 : Byte) ≠ 0 ∧
      (let s := { base with i1 := ⟨.plus, 61, 33⟩ };
        (ea (pos 0) s).val = (0 : Nat) ∧ signed s.i1.sign s.i1.mag = (3937 : Nat) ∧ 3937 + (63 : Byte).toNat ≤ 4000) ∧
      (let s := { base with i1 := .zero };
        (ea (pos 3937) s).val = (3937 : Nat) ∧ signed s.i1.sign s.i1.mag = (0 : Nat)) := by decide

/-- The four faults in order, each at its first value. -/
theorem witness_MoveOutsideMemoryFaults :
    (2 : Byte) ≠ 0 ∧
      (let out : Int → Prop := fun a => ¬ (0 ≤ a ∧ a < 4000);
       let fits : Int → Prop := fun a => a + (2 : Byte).toNat ≤ 4000;
        (out (ea (neg 1) base).val ∧ out (ea (pos 4000) base).val) ∧
        (¬ out (ea (pos 3999) base).val ∧ ¬ fits (ea (pos 3999) base).val) ∧
        (¬ out (ea (pos 3998) base).val ∧ fits (ea (pos 3998) base).val ∧ out (signed .minus 1) ∧ out (signed .plus 4000)) ∧
        (¬ out (ea (pos 0) base).val ∧ fits (ea (pos 0) base).val ∧ ¬ out (signed .plus 3999) ∧ ¬ fits (signed .plus 3999))) := by decide

/-- The first and the last start; the refused ones -1 and 4000, and a registry that holds a unit. -/
theorem witness_ResetGivesEveryPieceOfState :
    ((0 : Int) ≤ 0 ∧ (3999 : Int) < 4000 ∧ ([] : List Nat) = []) ∧ (-1 : Int) < 0 ∧ (4000 : Int) ≤ 4000 ∧ [18] ≠ ([] : List Nat) := by decide

/-- A booted state: reset at the last address, then a load at the last address. -/
theorem witness_InvariantHoldsAfterBoot :
    Booted ((State.resetAt 3999).setMem ((State.resetAt 3999).mem.write 3999 w)) := .load _ _ _ (.reset _ (by decide)) (by decide)

/-- A state with the invariant whose step goes on: a jump at the last address, which leaves 4000 in J. -/
theorem witness_EveryStepKeepsTheInvariant :
    (before 3999 id 0x0000027).Inv ∧
      step (before 3999 id 0x0000027) = .next { before 3999 id 0x0000027 with pc := 0, j := ⟨.plus, 62, 32⟩ } := ⟨⟨by decide, by decide, by decide⟩, by rfl⟩

/-- A reached state; a step from a state whose CI is set. -/
theorem witness_ReachableStatesAreLegal :
    Reachable (State.resetAt 100) ∧ ({ State.resetAt 100 with ci := .less } : State).ci ≠ .unset ∧
      step { State.resetAt 100 with ci := .less } = .next { State.resetAt 100 with ci := .less, pc := 101 } := ⟨.boot _ (.reset _ (by decide)), by decide, by rfl⟩

/-- A step that sets OV and one that clears it. -/
theorem witness_OverflowToggleRule :
    (exec (.inc1 (pos 4093)) base = .next { base with i1 := .zero, ov := true, pc := 101 } ∧ base.ov = false) ∧
      exec (.jov (pos 300)) { base with ov := true } = .next { base with pc := 300, j := ⟨.plus, 1, 37⟩ } := ⟨⟨by rfl, by rfl⟩, by rfl⟩

/-- A completed compare and a completed instruction that is none. -/
theorem witness_ComparisonIndicatorRule :
    (exec (.cmpa (pos 2000) ⟨0, 5⟩) base = .next { base with ci := .greater, pc := 101 } ∧
      isCompare (.cmpa (pos 2000) ⟨0, 5⟩) = true) ∧
      exec (.nop (pos 0) 0) base = .next { base with pc := 101 } ∧ isCompare (.nop (pos 0) 0) = false := ⟨⟨by rfl, by rfl⟩, by rfl, by rfl⟩

/-- A step that changes J. -/
theorem witness_JumpRegisterRule :
    base.pc.toNat < 4000 ∧ exec (.jmp (pos 0)) base = .next { base with pc := 0, j := ⟨.plus, 1, 37⟩ } ∧
      (⟨.plus, 1, 37⟩ : Half) ≠ base.j := ⟨by decide, by rfl, by decide⟩

/-- The last instruction of memory completing. -/
theorem witness_ProgramCounterRule :
    ({ base with pc := 3999 } : State).pc.toNat < 4000 ∧
      exec (.nop (pos 0) 0) { base with pc := 3999 } = .next { base with pc := 4000 } := ⟨by decide, by rfl⟩

/-- HLT completing. -/
theorem witness_HaltFlagRule :
    exec (.hlt (pos 0)) base = .next { base with halt := true, pc := 101 } := by rfl

/-- A completed instruction that writes no memory. -/
theorem witness_MemoryWritersRule :
    exec (.lda (pos 3999) ⟨0, 5⟩) base = .next { base with a := up, pc := 101 } ∧ writesMemory (.lda (pos 3999) ⟨0, 5⟩) = false := ⟨by rfl, by rfl⟩

/-- A positive J; JSJ, which neither writes nor reads J, completing. -/
theorem witness_RegisterAccessSummary :
    base.j.sign = .plus ∧ writesReg .jump (.jsj (pos 0)) = false ∧ readsReg .jump (.jsj (pos 0)) = false ∧
      exec (.jsj (pos 0)) base = .next { base with pc := 0 } := ⟨by decide, by decide, by decide, by rfl⟩

/-- An instruction that is neither JOV nor JNOV and reads no CI. -/
theorem witness_FlagsAreReadByTheirJumpsOnly :
    (∀ m, Instr.jmp (pos 0) ≠ .jov m ∧ Instr.jmp (pos 0) ≠ .jnov m) ∧ readsCi (.jmp (pos 0)) = false := ⟨fun _ => ⟨by simp, by simp⟩, by rfl⟩

/-- `STA 101` at 100 with a HLT in A, `STJ 100` at 100, and `MOVE 2000(2)` at 100 with I1 = 100. -/
theorem witness_StoredWordIsFetchedNext :
    (let s := before 100 (fun s => { s with a := Word.ofEnc 0x85 }) 0x01940158;
      s.mem.wf = true ∧ s.halt = false ∧ s.pc.toNat < 4000 ∧ (Instr.sta (pos 101) ⟨0, 5⟩).WellFormed ∧
        s.mem.read s.pc.toNat = encode (.sta (pos 101) ⟨0, 5⟩) ∧
        storeParts s (.sta (pos 101) ⟨0, 5⟩) = some (pos 101, ⟨0, 5⟩, s.a) ∧ addresses (pos 101) s (s.pc.toNat + 1)) ∧
      (let s := before 100 id 0x019000A0;
        s.mem.wf = true ∧ (Instr.stj (pos 100)).WellFormed ∧ s.mem.read s.pc.toNat = encode (.stj (pos 100)) ∧
          storeParts s (.stj (pos 100)) = some (pos 100, ⟨0, 2⟩, widened s.j) ∧ addresses (pos 100) s s.pc.toNat) ∧
      (let s := before 100 (fun s => { s with i1 := ⟨.plus, 1, 36⟩ }) 0x1F400087;
        s.mem.wf = true ∧ s.halt = false ∧ s.mem.read s.pc.toNat = encode (.move (pos 2000) 2) ∧
          (2 : Byte) ≠ 0 ∧ (ea (pos 2000) s).val = (2000 : Nat) ∧ signed s.i1.sign s.i1.mag = (100 : Nat) ∧
          2000 + (2 : Byte).toNat ≤ 4000 ∧ 100 + (2 : Byte).toNat ≤ 4000) := by
  unfold addresses
  decide

/-- A session whose step faults. -/
theorem witness_FaultChangesNothing :
    step (before 100 id 0x3E800148) = .fault (.addressOutOfRange 4000) := by rfl

/-- A session whose step faults: PC outside memory. -/
theorem witness_FaultIsStickyUntilReset :
    step { base with pc := 4000 } = .fault (.addressOutOfRange 4000) := by rfl

/-- Before the first step, at both ends of memory; after it; just outside memory. -/
theorem witness_LoadPlacesOneWord :
    Session.initial.core.mem.wf = true ∧ Session.initial.stepped = false ∧ (0 : Int) = (0 : Nat) ∧ (3999 : Int) = (3999 : Nat) ∧
      (⟨base, true⟩ : Session).stepped = true ∧ (-1 : Int) < 0 ∧ (4000 : Int) ≤ 4000 := by decide

/-- A running machine whose step returns HALTED, one whose step faults, a run that ends in its second step, and a step that returns OK. -/
theorem witness_RunEndsAtTheFirstStatusNotOk :
    Status.halted ≠ .ok ∧ (⟨before 100 id 0x85, false⟩ : Session).core.halt = false ∧
      (⟨before 100 id 0x85, false⟩ : Session).stepOp =
        (.status .halted 0, ⟨{ before 100 id 0x85 with halt := true, pc := 101 }, true⟩) ∧
      Status.addressOutOfRange ≠ .ok ∧ (⟨before 100 id 0x3E800148, false⟩ : Session).stepOp =
        (.status .addressOutOfRange 4000, ⟨before 100 id 0x3E800148, true⟩) ∧
      ((⟨{ before 100 id 0x85 with pc := 99 }, false⟩ : Session).run 2).1 = .status .halted 0 ∧
      (⟨{ before 100 id 0x85 with pc := 99 }, false⟩ : Session).stepOp.1 = .status .ok 0 := by decide

end Sys2Proof.Tests
end

/-! PROOFS of the statements about words, fields and the jump register (O1, O2, O4 to O7): first the lemmas they share,
then one theorem per statement. -/

namespace Sys2Proof

/-! ## The codec -/

@[simp] theorem Sign.flip_ne (s : Sign) : s.flip ≠ s := by cases s <;> decide

@[simp] theorem Sign.flip_flip (s : Sign) : s.flip.flip = s := by cases s <;> rfl

@[simp] theorem negate_negate (w : Word) : negate (negate w) = w := by simp [negate]

/-- `compose` keeps a byte that is in range (R32). -/
theorem toNat_composeByte {b : Nat} (h : b ≤ 63) : (composeByte b).toNat = b := by
  have hb : (0 : Int) ≤ b ∧ (b : Int) ≤ 63 := by omega
  rw [composeByte, if_pos hb, Int.toNat_natCast, BitVec.toNat_ofNat]
  omega

theorem decompose_compose {b1 b2 b3 b4 b5 : Nat} (s : Sign) (h1 : b1 ≤ 63) (h2 : b2 ≤ 63) (h3 : b3 ≤ 63) (h4 : b4 ≤ 63)
    (h5 : b5 ≤ 63) : decompose (compose b1 b2 b3 b4 b5 s) = ((b1, b2, b3, b4, b5), s) := by
  simp only [decompose, compose, toNat_composeByte, h1, h2, h3, h4, h5]

theorem Word.signum_of_plus {w : Word} (h : w.sign = .plus) : w.signum = 1 := by simp [Word.signum, h]

theorem Word.signum_of_minus {w : Word} (h : w.sign = .minus) : w.signum = -1 := by simp [Word.signum, h]

/-! ## The field unit -/

theorem FieldSpec.l_eq_zero_iff (f : FieldSpec) : f.l = 0 ↔ f.l.val = 0 := Fin.ext_iff

/-- A byte is the lowest digit, so cutting a number to one digit or more keeps it. -/
theorem ofNat_byte_mod_pow (a : Nat) {j : Nat} (h : 0 < j) : BitVec.ofNat 6 (a % 64 ^ j) = BitVec.ofNat 6 a := by
  have hd : 64 ∣ 64 ^ j := dvd_pow_self 64 h.ne'
  apply BitVec.eq_of_toNat_eq
  rw [BitVec.toNat_ofNat, BitVec.toNat_ofNat]
  exact Nat.mod_mod_of_dvd a hd

/-- A field view's byte is a digit of the view's magnitude. -/
theorem fieldView_byte_eq (w : Word) (f : FieldSpec) {k : Nat} (h1 : 1 ≤ k) (h5 : k ≤ 5) :
    (fieldView w f).byte k = .ofNat 6 (w.mag / 64 ^ (5 - f.r.val) % 64 ^ f.count / 64 ^ (5 - k)) :=
  Word.byte_ofMag _ _ k h1 h5

/-- The high bytes of a field view, those left of its `count` data bytes, are zero (R36). -/
theorem fieldView_byte_high (w : Word) (f : FieldSpec) {k : Nat} (h1 : 1 ≤ k) (h5 : k ≤ 5) (hk : k + f.count < 6) :
    (fieldView w f).byte k = 0 := by
  have hlt : w.mag / 64 ^ (5 - f.r.val) % 64 ^ f.count < 64 ^ (5 - k) :=
    calc w.mag / 64 ^ (5 - f.r.val) % 64 ^ f.count
      _ < 64 ^ f.count := Nat.mod_lt _ (by positivity)
      _ ≤ 64 ^ (5 - k) := Nat.pow_le_pow_right (by decide) (by omega)
  rw [fieldView_byte_eq w f h1 h5, Nat.div_eq_of_lt hlt]
  rfl

/-- The low bytes of a field view are the field's bytes, moved right by 5 - R places (R36). -/
theorem fieldView_byte_low (w : Word) (f : FieldSpec) {k : Nat} (h5 : k ≤ 5) (hk : 6 ≤ k + f.count) :
    (fieldView w f).byte k = w.byte (k - (5 - f.r.val)) := by
  have hr := f.r.isLt
  have hcount : f.count ≤ f.r.val := by unfold FieldSpec.count FieldSpec.lo; omega
  have hsplit : 64 ^ f.count = 64 ^ (5 - k) * 64 ^ (f.count - (5 - k)) := by rw [← pow_add]; congr 1; omega
  have hplace : 5 - f.r.val + (5 - k) = 5 - (k - (5 - f.r.val)) := by omega
  rw [fieldView_byte_eq w f (by omega) h5, Word.byte_eq w _ (by omega) (by omega), hsplit,
    Nat.mod_mul_right_div_self, ofNat_byte_mod_pow _ (by omega), Nat.div_div_eq_div_mul, ← pow_add, hplace]

theorem fieldView_byte (w : Word) (f : FieldSpec) {k : Nat} (h1 : 1 ≤ k) (h5 : k ≤ 5) :
    (fieldView w f).byte k = if k + f.count < 6 then 0 else w.byte (k - (5 - f.r.val)) := by
  split
  · exact fieldView_byte_high w f h1 h5 (by assumption)
  · exact fieldView_byte_low w f h5 (by omega)

/-- A field write puts the low-order bytes of `v` into the field and leaves the rest (R38). -/
theorem applyField_replaces (dst v : Word) (f : FieldSpec) : Spec.fieldReplaced dst v f (applyField dst f v) := by
  refine ⟨?_, fun k h1 h5 => applyField_byte dst v f k h1 h5⟩
  rw [applyField_sign]
  simp only [FieldSpec.l_eq_zero_iff]

/-- Writing a field's own value back changes no byte: byte i of the field comes back from byte 5 - (R - i) of the view. -/
theorem applyByte_fieldView (w : Word) (f : FieldSpec) (i : Nat) : applyByte w f (fieldView w f) i = w.byte i := by
  unfold applyByte
  split
  · rename_i hi
    have hr := f.r.isLt
    have hlow : 6 ≤ 5 - (f.r.val - i) + f.count := by unfold FieldSpec.count; omega
    have hback : 5 - (f.r.val - i) - (5 - f.r.val) = i := by omega
    rw [fieldView_byte_low w f (by omega) hlow, hback]
  · rfl

theorem applyField_fieldView (w : Word) (f : FieldSpec) : applyField w f (fieldView w f) = w := by
  apply Word.ext_byte
  · rw [applyField_sign, fieldView_sign]
    split <;> rfl
  · intro i h1 h5
    rw [applyField_byte _ _ _ _ h1 h5, applyByte_fieldView]

end Sys2Proof

namespace Sys2Proof.Machine

variable {m : Addr} {f : FieldSpec} {s t u : State}

/-! ## The jump register after an instruction, operation by operation: only a taken jump writes it -/

theorem finish_j (h : finish u = .next t) : t.j = u.j := by
  rw [finish_next h, State.advance_j]

theorem addFull_j {r : FullReg} {d : Int} (h : addFull r d s = .next t) : t.j = s.j := by
  simp [addFull_eq_next.1 h]

theorem addIndex_j {i : IndexReg} {d : Int} (h : addIndex i d s = .next t) : t.j = s.j := by
  simp [addIndex_eq_next.1 h]

theorem multiply_j {v : Word} (h : multiply v s = .next t) : t.j = s.j := by
  simp [multiply_eq_next.1 h]

theorem divide_j {v : Word} (h : divide v s = .next t) : t.j = s.j := by
  obtain ⟨-, rfl⟩ | ⟨-, rfl⟩ := divide_eq_next.1 h <;> simp

/-- A memory operand is only read: what the rest leaves of J is what the instruction leaves. -/
theorem withCell_j {k : Nat → Word → Result} (hk : ∀ a w, k a w = .next t → t.j = s.j)
    (h : withCell m f s k = .next t) : t.j = s.j := by
  obtain ⟨-, -, -, h⟩ := withCell_next h
  exact hk _ _ h

theorem loadFull_j {g : Word → Word} {r : FullReg} (h : loadFull g r m f s = .next t) : t.j = s.j := by
  obtain ⟨-, -, -, rfl⟩ := loadFull_eq_next.1 h
  simp

theorem loadIndex_j {g : Word → Word} {i : IndexReg} (h : loadIndex g i m f s = .next t) : t.j = s.j := by
  obtain ⟨-, -, -, -, rfl⟩ := loadIndex_eq_next.1 h
  simp

theorem store_j {src : Word} (h : store src m f s = .next t) : t.j = s.j := by
  obtain ⟨-, -, -, rfl⟩ := store_eq_next.1 h
  simp

theorem compareField_j {v : Word} (h : compareField v m f s = .next t) : t.j = s.j := by
  obtain ⟨-, -, -, rfl⟩ := compareField_eq_next.1 h
  simp

theorem enterFull_j {r : FullReg} {v : Word} (h : enterFull r v s = .next t) : t.j = s.j := by
  simp [enterFull_eq_next.1 h]

theorem enterIndex_j {i : IndexReg} {v : Word} (h : enterIndex i v s = .next t) : t.j = s.j := by
  obtain ⟨-, rfl⟩ := enterIndex_eq_next.1 h
  simp

theorem shiftA_j {op : List Byte → Nat → List Byte} (h : shiftA op m s = .next t) : t.j = s.j := by
  obtain ⟨-, rfl⟩ := shiftA_eq_next.1 h
  simp

theorem shiftAX_j {op : List Byte → Nat → List Byte} (h : shiftAX op m s = .next t) : t.j = s.j := by
  obtain ⟨-, rfl⟩ := shiftAX_eq_next.1 h
  simp

theorem moveRun_j {n : Nat} (h : moveRun n m s = .next t) : t.j = s.j := by
  obtain ⟨-, rfl⟩ | ⟨-, -, -, -, -, rfl⟩ := moveRun_eq_next.1 h <;> simp

/-- A jump leaves J alone when it is not taken; taken, J is what its writes make of it. -/
theorem jumpIf_j {c : Bool} {k : State → State} (h : jumpIf c k m s = .next t) : t.j = s.j ∨ t.j = (k s).j := by
  obtain ⟨-, rfl⟩ | ⟨-, -, -, rfl⟩ := jumpIf_eq_next.1 h
  · exact .inl (State.advance_j s)
  · exact .inr (State.setPc_j _ _)

/-- An instruction leaves J alone or links it to the instruction that follows (R46, R360). The equations `exec_<name>` give
the operation each instruction is, and the cases below go through the operations. -/
theorem exec_j {i : Instr} (h : exec i s = .next t) : t.j = s.j ∨ t.j = (link s).j := by
  cases i with simp at h
  | nop => exact .inl (finish_j h)
  | hlt => exact .inl ((finish_j h).trans (State.setHalt_j s))
  | num | char => exact (raise_eq_next.1 h).elim
  | jbus | ioc | inp | out | jred => exact (deviceHook_eq_next.1 h).elim
  | add | sub => exact .inl (withCell_j (fun _ _ => addFull_j) h)
  | mul => exact .inl (withCell_j (fun _ _ => multiply_j) h)
  | div => exact .inl (withCell_j (fun _ _ => divide_j) h)
  | sla | sra => exact .inl (shiftA_j h)
  | slax | srax | slc | src => exact .inl (shiftAX_j h)
  | move => exact .inl (moveRun_j h)
  | lda | ldx | ldan | ldxn => exact .inl (loadFull_j h)
  | ld1 | ld2 | ld3 | ld4 | ld5 | ld6 | ld1n | ld2n | ld3n | ld4n | ld5n | ld6n => exact .inl (loadIndex_j h)
  | sta | st1 | st2 | st3 | st4 | st5 | st6 | stx | stj | stz => exact .inl (store_j h)
  | inca | deca | incx | decx => exact .inl (addFull_j h)
  | inc1 | inc2 | inc3 | inc4 | inc5 | inc6 | dec1 | dec2 | dec3 | dec4 | dec5 | dec6 => exact .inl (addIndex_j h)
  | enta | enna | entx | ennx => exact .inl (enterFull_j h)
  | ent1 | ent2 | ent3 | ent4 | ent5 | ent6 | enn1 | enn2 | enn3 | enn4 | enn5 | enn6 => exact .inl (enterIndex_j h)
  | cmpa | cmp1 | cmp2 | cmp3 | cmp4 | cmp5 | cmp6 | cmpx => exact .inl (compareField_j h)
  | jsj => exact (jumpIf_j h).elim .inl .inl
  | jov => exact (jumpIf_j h).imp_right fun hj => hj.trans (State.setOv_j (link s) false)
  | jmp | jnov | jl | je | jg | jge | jne | jle => exact jumpIf_j h
  | jan | jaz | jap | jann | janz | janp | jxn | jxz | jxp | jxnn | jxnz | jxnp
  | j1n | j1z | j1p | j1nn | j1nz | j1np | j2n | j2z | j2p | j2nn | j2nz | j2np
  | j3n | j3z | j3p | j3nn | j3nz | j3np | j4n | j4z | j4p | j4nn | j4nz | j4np
  | j5n | j5z | j5p | j5nn | j5nz | j5np | j6n | j6z | j6p | j6nn | j6nz | j6np => exact jumpIf_j h

/-! ## The step -/

/-- When a step answers a next state: a halted machine stays as it is, a running one executes what it fetched (R500, R515). -/
theorem step_eq_next :
    step s = .next t ↔ (s.halt = true ∧ t = s) ∨ (s.halt = false ∧ ∃ i, fetch s = .run i ∧ exec i s = .next t) := by
  unfold step
  cases s.halt with
  | true => simp [haltedStep, eq_comm]
  | false => cases fetch s <;> simp [raise]

/-- A step leaves J alone or links it to the instruction that follows (R46, R360). -/
theorem step_j (h : step s = .next t) : t.j = s.j ∨ t.j = (link s).j := by
  obtain ⟨-, rfl⟩ | ⟨-, i, -, hexec⟩ := step_eq_next.1 h
  · exact .inl rfl
  · exact exec_j hexec

theorem step_j_plus (hs : s.j.sign = .plus) (h : step s = .next t) : t.j.sign = .plus := by
  rcases step_j h with hj | hj <;> rw [hj]
  · exact hs
  · rw [link_j, Half.sign_ofMag]

end Sys2Proof.Machine

/-! ## The statements -/

namespace Sys2Proof.Spec

open Sys2Proof.Machine

/-- Settles O4: the view's bytes, magnitude and sign, from the digits of the word's magnitude. -/
theorem fieldViewTakesItsBytes : Obligations.FieldViewTakesItsBytes := by
  intro w f _
  refine ⟨fun k h1 h5 => fieldView_byte w f h1 h5, fieldView_mag w f, fun hl => ?_, fun hl => ?_⟩
  · rw [fieldView_sign, if_pos (f.l_eq_zero_iff.2 hl)]
  · rw [fieldView_sign, if_neg fun h0 => hl.ne' (f.l_eq_zero_iff.1 h0)]

/-- Settles O5: byte by byte, and the spec's example by running it. -/
theorem fieldWriteReplacesItsBytes : Obligations.FieldWriteReplacesItsBytes :=
  ⟨fun dst v f _ => applyField_replaces dst v f, by decide⟩

/-- Settles O6: the bytes of the view go back to where they came from; a widened half register is a word as any other. -/
theorem fieldSelfCopyChangesNothing : Obligations.FieldSelfCopyChangesNothing :=
  ⟨fun w f _ => applyField_fieldView w f, fun h dst f _ => applyField_replaces dst (pad h) f⟩

/-- Settles O7: J is written by `State.setJ` only, and a step keeps J or links it. -/
theorem jumpRegisterWriteForcesPlus : Obligations.JumpRegisterWriteForcesPlus :=
  ⟨fun _ _ => rfl, fun _ => rfl, fun _ _ => step_j_plus⟩

/-- Settles O1: the sign of `negate w` is the flipped one, and flipping twice gives the sign back. -/
theorem negateFlipsTheSignOnly : Obligations.NegateFlipsTheSignOnly := by
  intro w
  exact ⟨w.sign.flip_ne, rfl, rfl, rfl, rfl, rfl, negate_mag w, negate_negate w, rfl, rfl⟩

/-- Settles O2: `compose` keeps every byte in range, and `decompose` reads the word as it is. -/
theorem decomposeReadsBackCompose : Obligations.DecomposeReadsBackCompose := by
  refine ⟨fun b1 b2 b3 b4 b5 s h1 h2 h3 h4 h5 => decompose_compose s h1 h2 h3 h4 h5, fun w => ?_⟩
  exact ⟨rfl, Word.signum_of_plus, Word.signum_of_minus, w.mag_eq, w.mag_lt⟩

end Sys2Proof.Spec

/-! PROOF of the statement about the index byte (O10): the decoder keeps the index selector it reads, and a rejected word
stops the step that fetches it. -/

namespace Sys2Proof

open Spec (addrOf)

variable {m : Addr} {b : Byte} {i : Instr} {w : Word}

/-! ## The address part of a decoded instruction -/

theorem withFieldSpec_addrOf {k : FieldSpec → Instr} (h : withFieldSpec b k = .ok i) (hk : ∀ f, addrOf (k f) = m) :
    addrOf i = m := by
  obtain ⟨f, -, -, rfl⟩ := withFieldSpec_ok h
  exact hk f

theorem selectBy_addrOf {l : List Instr} (h : selectBy b l = .ok i) (hl : l.map addrOf = List.replicate l.length m) :
    addrOf i = m :=
  List.map_eq_replicate_iff.1 hl i (List.mem_of_getElem? (selectBy_ok h))

/-- Every row of the opcode map puts the address part it is given into the instruction (R107). -/
theorem decodeOpcode_addrOf {c : Nat} (h : decodeOpcode m b c = .ok i) : addrOf i = m := by
  match c, h with
  | 0, h | 7, h | 34, h | 35, h | 36, h | 37, h | 38, h =>
    cases h
    rfl
  | 1, h | 2, h | 3, h | 4, h
  | 8, h | 9, h | 10, h | 11, h | 12, h | 13, h | 14, h | 15, h
  | 16, h | 17, h | 18, h | 19, h | 20, h | 21, h | 22, h | 23, h
  | 24, h | 25, h | 26, h | 27, h | 28, h | 29, h | 30, h | 31, h | 33, h
  | 56, h | 57, h | 58, h | 59, h | 60, h | 61, h | 62, h | 63, h => exact withFieldSpec_addrOf h fun _ => rfl
  | 5, h | 6, h | 39, h
  | 40, h | 41, h | 42, h | 43, h | 44, h | 45, h | 46, h | 47, h
  | 48, h | 49, h | 50, h | 51, h | 52, h | 53, h | 54, h | 55, h => exact selectBy_addrOf h rfl
  | 32, h =>
    change (if b = 2 then Decoded.ok (.stj m) else .reject _) = .ok i at h
    split at h
    · cases h
      rfl
    · cases h
  | _ + 64, h => cases h

/-! ## The index byte of a word -/

/-- The index byte is checked before anything else of the word (R511). -/
theorem decode_of_invalidIndex (h : 6 < w.b3.toNat) : decode w = .reject (.invalidIndex w.b3.toNat) := by
  simp only [decode, (decodeIndex_eq_none_iff w.b3).2 h]

/-- A decoded instruction uses the index selector of its word (R104). -/
theorem decodeIndex_of_decode_ok (h : decode w = .ok i) : decodeIndex w.b3 = some (addrOf i).index := by
  unfold decode at h
  split at h
  · cases h
  · rw [decodeOpcode_addrOf h]
    assumption

/-- Each index selector with its byte (R104). -/
theorem encodeIndex_cases (ix : Option IndexReg) :
    (encodeIndex ix = 0 ∧ ix = none) ∨ (encodeIndex ix = 1 ∧ ix = some .i1) ∨ (encodeIndex ix = 2 ∧ ix = some .i2) ∨
      (encodeIndex ix = 3 ∧ ix = some .i3) ∨ (encodeIndex ix = 4 ∧ ix = some .i4) ∨
      (encodeIndex ix = 5 ∧ ix = some .i5) ∨ (encodeIndex ix = 6 ∧ ix = some .i6) := by
  rcases ix with _ | r
  · decide
  · cases r <;> decide

end Sys2Proof

namespace Sys2Proof.Machine

/-- A running machine stops with the fault of the decode error of the word at PC (R500, R503, R504). -/
theorem step_of_decode_reject {s : State} {r : Reject} (hrun : s.halt = false) (hpc : s.pc.toNat < Config.memSize)
    (h : decode (s.mem.read s.pc.toNat) = .reject r) : step s = .fault (Reject.fault r) := by
  have hfetch : fetch s = .stop (Reject.fault r) := by simp only [fetch, hpc, if_true, h]
  simp [step, hrun, hfetch, raise]

end Sys2Proof.Machine

namespace Sys2Proof.Spec

open Sys2Proof.Machine

/-- Settles O10: the index byte is checked first, a rejected word stops the step that fetches it, and the instruction of an
accepted word keeps the selector of the byte. -/
theorem indexByteAboveSixIsRejected : Obligations.IndexByteAboveSixIsRejected := by
  refine ⟨fun w h => decode_of_invalidIndex h, fun s hrun hpc h => ?_, fun w i h => ?_⟩
  · exact step_of_decode_reject hrun hpc (decode_of_invalidIndex h)
  · have hbyte : encodeIndex (addrOf i).index = w.b3 := encodeIndex_of_decodeIndex (decodeIndex_of_decode_ok h)
    rw [← hbyte]
    exact encodeIndex_cases _

end Sys2Proof.Spec

/-! PROOF of the statement about STZ (O21): what a store of any source word does to the addressed word, where it faults, and
the code of an instruction whose F byte is a field. -/

namespace Sys2Proof.Spec

open Sys2Proof.Machine

variable {m : Addr} {f : FieldSpec} {s : State}

theorem legalField_iff : legalField f ↔ f.legal = true := f.legal_iff.symm

/-- An instruction assembled with the field (L:R) has the F byte 8L + R (R105). -/
theorem codedAs_of_encode_field {i : Instr} {c : Byte} (h : encode i = assemble m f.toByte c) :
    codedAs i c.toNat (8 * f.l.val + f.r.val) := by
  rw [codedAs, h]
  exact ⟨rfl, f.toNat_toByte⟩

/-- A memory operand outside memory is never read (R82, R112). -/
theorem withCell_outside {k : Nat → Word → Result} (hf : legalField f) (h : outside m s) :
    withCell m f s k = .fault (.addressOutOfRange (ea m s).val) := by
  refine withCell_bad (legalField_iff.1 hf) (fun hin => ?_) k
  obtain hneg | hbig := h
  · exact absurd hin.1 (Int.not_le.2 hneg)
  · exact absurd hin.2 (Int.not_lt.2 hbig)

/-- The one next state of a store to an address of memory (R220). -/
theorem store_of_addresses {src : Word} {a : Nat} (hf : legalField f) (h : addresses m s a) :
    store src m f s = .next { s with mem := s.mem.write a (applyField (s.mem.read a) f src), pc := s.pc + 1 } := by
  obtain ⟨hea, hlt⟩ := h
  refine store_eq_next.2 ⟨legalField_iff.1 hf, by omega, ?_, ?_⟩
  · rw [hea]
    exact Int.ofNat_lt.2 hlt
  · rw [advance_eq, hea]
    rfl

/-- A store replaces the field of the addressed word from its source, and writes nothing else but PC (R220). -/
theorem store_replaces_field {src : Word} {a : Nat} (hwf : s.mem.wf = true) (hf : legalField f) (h : addresses m s a) :
    ∃ t, store src m f s = .next t ∧ fieldReplaced (s.mem.read a) src f (t.mem.read a) ∧
      (∀ b : Nat, b ≠ a → t.mem.read b = s.mem.read b) ∧ t = { s with mem := t.mem, pc := s.pc + 1 } := by
  refine ⟨_, store_of_addresses hf h, ?_, fun b hb => Memory.read_write_ne hwf _ hb, rfl⟩
  rw [Memory.read_write_same hwf]
  exact applyField_replaces _ _ _

/-- Settles O21: STZ is the store whose source is the word +0, whatever the registers hold. -/
theorem storeZero : Obligations.StoreZero := by
  intro m f s hwf hf
  refine ⟨codedAs_of_encode_field (m := m) (c := 33) rfl, fun a ha => ?_, fun hout => ?_⟩
  · rw [exec_stz]
    exact store_replaces_field (src := .zero) hwf hf ha
  · rw [exec_stz]
    exact withCell_outside hf hout

end Sys2Proof.Spec

/-! PROOF of the statement about MUL (O24): the product as a number, its two halves, and the memory operand of an
instruction with a field. -/

namespace Sys2Proof

/-- The XOR of two signs is - exactly when they differ (R262). -/
theorem Sign.xor_eq_minus_iff (s t : Sign) : s.xor t = .minus ↔ s ≠ t := by
  cases s <;> cases t <;> decide

/-- The product of two magnitudes fits the double register, so its high half fits a word (R262). -/
theorem Word.mag_mul_mag_div_lt (v w : Word) : v.mag * w.mag / 2 ^ 30 < 2 ^ 30 :=
  Nat.div_lt_of_lt_mul (Nat.mul_lt_mul'' v.mag_lt w.mag_lt)

/-- A number of at most 60 bits is put together again from its two halves, each held in a word (R84). -/
theorem Word.mag_ofMag_halves (sg : Sign) {p : Nat} (h : p / 2 ^ 30 < 2 ^ 30) :
    (Word.ofMag sg (p / 2 ^ 30)).mag * 2 ^ 30 + (Word.ofMag sg (p % 2 ^ 30)).mag = p := by
  have hlow : p % 2 ^ 30 < 2 ^ 30 := Nat.mod_lt p (by decide)
  rw [Word.mag_ofMag_of_lt sg h, Word.mag_ofMag_of_lt sg hlow, Nat.div_add_mod']

end Sys2Proof

namespace Sys2Proof.Spec

open Sys2Proof.Machine

variable {m : Addr} {f : FieldSpec} {s : State}

theorem fieldView_mag_eq_viewMag (w : Word) (f : FieldSpec) : (fieldView w f).mag = viewMag w f := fieldView_mag w f

theorem fieldView_sign_eq_viewSign (w : Word) (f : FieldSpec) : (fieldView w f).sign = viewSign w f := by
  rw [fieldView_sign, viewSign]
  simp only [f.l_eq_zero_iff]

/-- A memory operand in memory goes on with the whole word at its address (R82, R86). -/
theorem withCell_of_addresses {k : Nat → Word → Result} {a : Nat} (hf : legalField f) (h : addresses m s a) :
    withCell m f s k = k a (s.mem.read a) := by
  obtain ⟨hea, hlt⟩ := h
  have h0 : 0 ≤ (ea m s).val := by omega
  have h1 : (ea m s).val < Config.memSize := hea ▸ Int.ofNat_lt.2 hlt
  rw [withCell_ok (legalField_iff.1 hf) h0 h1, hea, Int.toNat_natCast]

/-- A multiplication by `v` leaves the product in A:X, both halves with the XOR of the signs, and writes nothing else but
PC (R262). -/
theorem multiply_gives_product (v : Word) (s : State) :
    ∃ t, multiply v s = .next t ∧ t.a.mag * 2 ^ 30 + t.x.mag = s.a.mag * v.mag ∧
      (t.a.sign = .minus ↔ s.a.sign ≠ v.sign) ∧ t.x.sign = t.a.sign ∧
      t = { s with a := t.a, x := t.x, pc := s.pc + 1 } := by
  refine ⟨_, finish_eq _, ?_, ?_, rfl, rfl⟩
  · exact Word.mag_ofMag_halves _ (s.a.mag_mul_mag_div_lt v)
  · exact s.a.sign.xor_eq_minus_iff v.sign

/-- Settles O24: MUL multiplies A by the view of its memory operand. -/
theorem multiplyGivesTheDoubleProduct : Obligations.MultiplyGivesTheDoubleProduct := by
  intro m f s hf
  refine ⟨codedAs_of_encode_field (m := m) (c := 3) rfl, fun a ha => ?_, fun hout => ?_⟩
  · rw [exec_mul, withCell_of_addresses hf ha, ← fieldView_mag_eq_viewMag, ← fieldView_sign_eq_viewSign]
    exact multiply_gives_product _ s
  · rw [exec_mul]
    exact withCell_outside hf hout

end Sys2Proof.Spec

/-! PROOF of the statement about NUM, CHAR and the I/O instructions (O41): the number InvalidOpcode carries for an instruction
whose code is known, and the stop at an empty registry. -/

namespace Sys2Proof.Spec

open Sys2Proof.Machine

/-- The number 64·C + F of InvalidOpcode, read off the instruction's word (R462, R463). -/
theorem opcodeNumber_of_codedAs {i : Instr} {c f : Nat} (h : codedAs i c f) :
    64 * (encode i).b5.toNat + (encode i).b4.toNat = 64 * c + f := by
  obtain ⟨hc, hf⟩ := h
  rw [hc, hf]

/-- NUM is F = 0 of C = 5 (R107). -/
theorem codedAs_num (m : Addr) : codedAs (.num m) 5 0 := ⟨rfl, rfl⟩

/-- CHAR is F = 1 of C = 5 (R107). -/
theorem codedAs_char (m : Addr) : codedAs (.char m) 5 1 := ⟨rfl, rfl⟩

/-- Settles O41: NUM and CHAR raise the number of their own word, and the five I/O instructions are the look-up of their unit
in the empty registry, which never reads the address part. -/
theorem outOfScopeInstructionsFault : Obligations.OutOfScopeInstructionsFault := by
  intro m u s
  have hnum : exec (.num m) s = .fault (.invalidOpcode 320) := exec_num m s
  have hchar : exec (.char m) s = .fault (.invalidOpcode 321) := exec_char m s
  refine ⟨?_, hnum, ?_, hchar, ?_, ?_, ?_, ?_, ?_⟩
  · rw [opcodeNumber_of_codedAs (codedAs_num m), hnum]
  · rw [opcodeNumber_of_codedAs (codedAs_char m), hchar]
  · rw [exec_jbus, deviceHook_eq]
  · rw [exec_ioc, deviceHook_eq]
  · rw [exec_inp, deviceHook_eq]
  · rw [exec_out, deviceHook_eq]
  · rw [exec_jred, deviceHook_eq]

end Sys2Proof.Spec

/-! PROOF of the statement about overflow (O26): the values of signs and magnitudes, the operation behind each family as the
one that sets OV, and the completed step with OV set that all of them answer. -/

namespace Sys2Proof.Spec

open Sys2Proof.Machine

variable {m : Addr} {f : FieldSpec} {s : State}

/-! ## Values -/

theorem signed_eq_apply (sg : Sign) (n : Nat) : signed sg n = sg.apply n := by cases sg <;> rfl

theorem signed_word (w : Word) : signed w.sign w.mag = w.val := signed_eq_apply _ _

theorem signed_half (h : Half) : signed h.sign h.mag = h.val := signed_eq_apply _ _

theorem fieldView_val_eq_viewVal (w : Word) (f : FieldSpec) : (fieldView w f).val = viewVal w f := by
  rw [← signed_word, fieldView_sign_eq_viewSign, fieldView_mag_eq_viewMag, viewVal]

/-! ## Increments and decrements, by register -/

theorem exec_incOf (r : FullReg) : exec (incOf r m) s = addFull r (ea m s).val s := by cases r <;> rfl

theorem exec_decOf (r : FullReg) : exec (decOf r m) s = addFull r (-(ea m s).val) s := by cases r <;> rfl

theorem exec_incIdx (i : IndexReg) : exec (incIdx i m) s = addIndex i (ea m s).val s := by cases i <;> rfl

theorem exec_decIdx (i : IndexReg) : exec (decIdx i m) s = addIndex i (-(ea m s).val) s := by cases i <;> rfl

/-! ## The operations that set OV -/

/-- The result is a next state of status OK that has OV = 1 and goes on after `s` (R510). -/
def CompletesWithOverflow (s : State) (r : Result) : Prop :=
  ∃ t, r = .next t ∧ t.ov = true ∧ t.pc = s.pc + 1 ∧ statusOf r = .status .ok 0

/-- The next state of an instruction has status OK unless the machine is halted after it (R500). -/
theorem statusOf_next_of_running {t : State} (h : t.halt = false) : statusOf (.next t) = .status .ok 0 := by
  simp [statusOf, h]

theorem finish_completesWithOverflow {u : State} (hov : u.ov = true) (hpc : u.pc = s.pc) (hrun : u.halt = false) :
    CompletesWithOverflow s (finish u) := by
  refine ⟨{ u with pc := u.pc + 1 }, finish_eq u, hov, ?_, ?_⟩
  · rw [hpc]
  · rw [finish_eq]
    exact statusOf_next_of_running hrun

theorem signedAdd_overflow {rs : Sign} {rv d : Int} {w : Nat} (h : 2 ^ w ≤ (rv + d).natAbs) :
    (signedAdd rs rv d w).overflow = true := by
  rw [signedAdd_large h]

/-- OV is set when the sum needs more than the 30 bits of A or X (R264). -/
theorem addFull_overflow {r : FullReg} {d : Int} (hrun : s.halt = false)
    (h : 2 ^ 30 ≤ (signed (s.full r).sign (s.full r).mag + d).natAbs) :
    CompletesWithOverflow s (addFull r d s) := by
  rw [signed_word] at h
  have hsum : (signedAdd (s.full r).sign (s.full r).val d Config.magBits).overflow = true := signedAdd_overflow h
  exact finish_completesWithOverflow (by simp [hsum]) (by simp) (by simp [hrun])

/-- OV is set when the sum needs more than the 12 bits of an index register (R264, R300). -/
theorem addIndex_overflow {i : IndexReg} {d : Int} (hrun : s.halt = false)
    (h : 2 ^ 12 ≤ (signed (s.index i).sign (s.index i).mag + d).natAbs) :
    CompletesWithOverflow s (addIndex i d s) := by
  rw [signed_half] at h
  have hsum : (signedAdd (s.index i).sign (s.index i).val d Config.halfMagBits).overflow = true := signedAdd_overflow h
  exact finish_completesWithOverflow (by simp [hsum]) (by simp) (by simp [hrun])

/-- A quotient of 2^30 or more is one whose divisor does not exceed A's magnitude, the case in which DIV sets OV (R263). -/
theorem divide_overflow {v : Word} (hrun : s.halt = false)
    (h : v.mag = 0 ∨ 2 ^ 30 ≤ (s.a.mag * 2 ^ 30 + s.x.mag) / v.mag) : CompletesWithOverflow s (divide v s) := by
  have hfail : v.mag = 0 ∨ v.mag ≤ s.a.mag := by
    refine v.mag.eq_zero_or_pos.imp_right fun hpos => ?_
    have hbig := h.resolve_left hpos.ne'
    exact Nat.not_lt.1 fun hlt => Nat.not_lt.2 hbig ((quotient_lt_iff s.x.mag_lt hpos).2 hlt)
  rw [divide_fail hfail]
  exact finish_completesWithOverflow rfl rfl hrun

/-! ## The statement -/

/-- Settles O26: each instruction is one of the three operations above on its own operand, and none of them writes HALT. -/
theorem overflowIsNoFault : Obligations.OverflowIsNoFault := by
  intro s hrun
  refine ⟨fun m f a hf ha => ⟨fun h => ?_, fun h => ?_, fun h => ?_⟩, fun m r => ⟨fun h => ?_, fun h => ?_⟩,
    fun m i => ⟨fun h => ?_, fun h => ?_⟩⟩
  all_goals change CompletesWithOverflow s _
  · rw [exec_add, withCell_of_addresses hf ha, fieldView_val_eq_viewVal]
    exact addFull_overflow (r := .a) hrun h
  · rw [exec_sub, withCell_of_addresses hf ha, negate_val, fieldView_val_eq_viewVal]
    exact addFull_overflow (r := .a) hrun h
  · rw [exec_div, withCell_of_addresses hf ha]
    rw [← fieldView_mag_eq_viewMag] at h
    exact divide_overflow hrun h
  · rw [exec_incOf]
    exact addFull_overflow hrun h
  · rw [exec_decOf]
    exact addFull_overflow hrun h
  · rw [exec_incIdx]
    exact addIndex_overflow hrun h
  · rw [exec_decIdx]
    exact addIndex_overflow hrun h

end Sys2Proof.Spec

/-! PROOFS of the statements about the encoding (O8, O9, O59, O11, O12, O13): what the decoder makes of an encoded
instruction and the encoder of a decoded word, the codes of lists of instructions, and which F bytes an opcode accepts. -/

namespace Sys2Proof

open Spec (addrOf legalF codedAs opcodesFrom selectorsOf)

variable {m : Addr} {b c : Byte} {i : Instr} {l : List Instr} {w : Word}

/-! ## Decoding what was encoded -/

/-- The word of a well-formed instruction decodes to it: its opcode selects its row, and the row reads its F byte back. -/
theorem decode_encode (h : i.WellFormed) : decode (encode i) = .ok i := by
  cases i with
  | add m f | sub m f | mul m f | div m f
  | lda m f | ld1 m f | ld2 m f | ld3 m f | ld4 m f | ld5 m f | ld6 m f | ldx m f
  | ldan m f | ld1n m f | ld2n m f | ld3n m f | ld4n m f | ld5n m f | ld6n m f | ldxn m f
  | sta m f | st1 m f | st2 m f | st3 m f | st4 m f | st5 m f | st6 m f | stx m f | stz m f
  | cmpa m f | cmp1 m f | cmp2 m f | cmp3 m f | cmp4 m f | cmp5 m f | cmp6 m f | cmpx m f =>
    exact (decode_assemble m f.toByte _).trans (withFieldSpec_toByte h _)
  | _ => exact decode_assemble _ _ _

/-! ## Encoding what was decoded -/

/-- `i` is well formed, and its word is the one with these parts. -/
def IsWordOf (m : Addr) (b : Byte) (c : Nat) (i : Instr) : Prop := i.WellFormed ∧ encode i = assemble m b (.ofNat 6 c)

/-- What a field-spec opcode accepts is well formed, and has the F byte read. -/
theorem withFieldSpec_isWordOf {k : FieldSpec → Instr} {n : Nat} (h : withFieldSpec b k = .ok i)
    (hk : ∀ f : FieldSpec, f.legal = true → IsWordOf m f.toByte n (k f)) : IsWordOf m b n i := by
  obtain ⟨f, hf, rfl, rfl⟩ := withFieldSpec_ok h
  exact hk f hf

/-- What a selector opcode accepts is well formed and has the F byte read, where each listed one has its number as F byte. -/
theorem selectBy_isWordOf {n : Nat} (h : selectBy b l = .ok i)
    (hl : List.Forall (fun p => IsWordOf m (.ofNat 6 p.2) n p.1) l.zipIdx) : IsWordOf m b n i :=
  selectBy_ind (P := fun b i => IsWordOf m b n i) h (List.forall_iff_forall_mem.1 hl)

/-- What an opcode accepts is well formed, and its word has that opcode, F byte and address part (R107). -/
theorem decodeOpcode_isWordOf {n : Nat} (h : decodeOpcode m b n = .ok i) : IsWordOf m b n i := by
  match n, h with
  | 0, h | 7, h | 34, h | 35, h | 36, h | 37, h | 38, h =>
    cases h
    exact ⟨rfl, rfl⟩
  | 1, h | 2, h | 3, h | 4, h
  | 8, h | 9, h | 10, h | 11, h | 12, h | 13, h | 14, h | 15, h
  | 16, h | 17, h | 18, h | 19, h | 20, h | 21, h | 22, h | 23, h
  | 24, h | 25, h | 26, h | 27, h | 28, h | 29, h | 30, h | 31, h | 33, h
  | 56, h | 57, h | 58, h | 59, h | 60, h | 61, h | 62, h | 63, h =>
    exact withFieldSpec_isWordOf h fun f hf => ⟨hf, rfl⟩
  | 5, h | 6, h | 39, h
  | 40, h | 41, h | 42, h | 43, h | 44, h | 45, h | 46, h | 47, h
  | 48, h | 49, h | 50, h | 51, h | 52, h | 53, h | 54, h | 55, h =>
    exact selectBy_isWordOf h (by repeat' constructor)
  | 32, h =>
    change (if b = 2 then Decoded.ok (.stj m) else .reject _) = .ok i at h
    split at h
    · cases h
      subst b
      exact ⟨rfl, rfl⟩
    · cases h
  | _ + 64, h => cases h

/-- An accepted word is the word of the instruction read, which is well formed. -/
theorem encode_of_decode_ok (h : decode w = .ok i) : i.WellFormed ∧ encode i = w := by
  unfold decode at h
  split at h
  · cases h
  · rename_i ix hix
    obtain ⟨hwf, henc⟩ := decodeOpcode_isWordOf h
    rw [BitVec.ofNat_toNat, BitVec.setWidth_eq, assemble_of_decodeIndex hix] at henc
    exact ⟨hwf, henc⟩

/-! ## The codes of lists of instructions -/

/-- Every word is assembled with the address part of its instruction (R101). -/
theorem encode_eq_assemble (i : Instr) : ∃ b c, encode i = assemble (addrOf i) b c := by
  cases i <;> exact ⟨_, _, rfl⟩

/-- The address part as the sign and the first three bytes of the word (R101, R102, R104). -/
theorem encode_address (i : Instr) :
    (encode i).sign = (addrOf i).sign ∧ (encode i).b1.toNat * 64 + (encode i).b2.toNat = (addrOf i).mag.toNat ∧
      (encode i).b3 = encodeIndex (addrOf i).index := by
  obtain ⟨b, c, henc⟩ := encode_eq_assemble i
  have hmag := (addrOf i).mag.isLt
  rw [henc]
  refine ⟨rfl, ?_, rfl⟩
  simp only [assemble, BitVec.toNat_ofNat]
  omega

theorem codedAs_of_encode (h : encode i = assemble m b c) : codedAs i c.toNat b.toNat := by
  rw [codedAs, h]
  exact ⟨rfl, rfl⟩

/-- The k-th of a list of encoded instructions, from the list of their words. -/
theorem encode_getElem? {g : Nat → Word} (h : l.map encode = (List.range l.length).map g) {k : Nat} (hk : l[k]? = some i) :
    k < l.length ∧ encode i = g k := by
  obtain ⟨hlt, rfl⟩ := List.getElem?_eq_some_iff.1 hk
  refine ⟨hlt, ?_⟩
  simpa [hlt] using congrArg (·[k]?) h

/-- Instructions whose words have one F byte and rising opcodes. -/
theorem opcodesFrom_of_words {n : Nat} (hn : n + l.length ≤ 64)
    (h : l.map encode = (List.range l.length).map fun k => assemble m b (.ofNat 6 (n + k))) :
    opcodesFrom n b.toNat l := by
  intro k i hk
  obtain ⟨hlt, henc⟩ := encode_getElem? h hk
  have hc : (BitVec.ofNat 6 (n + k)).toNat = n + k := by rw [BitVec.toNat_ofNat]; omega
  exact hc ▸ codedAs_of_encode henc

/-- Field-spec instructions whose words have rising opcodes. -/
theorem opcodesFrom_of_fieldWords {n : Nat} {f : FieldSpec} (hn : n + l.length ≤ 64)
    (h : l.map encode = (List.range l.length).map fun k => assemble m f.toByte (.ofNat 6 (n + k))) :
    opcodesFrom n (8 * f.l.val + f.r.val) l := by
  rw [← f.toNat_toByte]
  exact opcodesFrom_of_words hn h

/-- Instructions whose words have one opcode and rising F bytes. -/
theorem selectorsOf_of_words {n : Nat} (hn : n < 64) (hl : l.length ≤ 64)
    (h : l.map encode = (List.range l.length).map fun k => assemble m (.ofNat 6 k) (.ofNat 6 n)) : selectorsOf n l := by
  intro k i hk
  obtain ⟨hlt, henc⟩ := encode_getElem? h hk
  have hc : (BitVec.ofNat 6 n).toNat = n := by rw [BitVec.toNat_ofNat]; omega
  have hb : (BitVec.ofNat 6 k).toNat = k := by rw [BitVec.toNat_ofNat]; omega
  have hcode := codedAs_of_encode henc
  rwa [hc, hb] at hcode

/-! ## Legal and illegal F bytes -/

/-- `d` is an instruction when `p` holds, and the rejection of the F byte when it does not. -/
def Accepts (d : Decoded) (p : Prop) (b : Byte) : Prop :=
  (p → ∃ i, d = .ok i) ∧ (¬ p → d = .reject (.invalidFieldSpec b.toNat))

theorem withFieldSpec_accepts (k : FieldSpec → Instr) :
    Accepts (withFieldSpec b k) (b.toNat / 8 ≤ b.toNat % 8 ∧ b.toNat % 8 ≤ 5) b := by
  refine ⟨fun h => ?_, withFieldSpec_reject k⟩
  obtain ⟨f, hf⟩ := Option.ne_none_iff_exists'.1 fun hnone => (decodeField_eq_none_iff b).1 hnone h
  exact ⟨k f, by rw [withFieldSpec, hf]⟩

theorem selectBy_accepts {n : Nat} (hl : l.length = n + 1) : Accepts (selectBy b l) (b.toNat ≤ n) b := by
  refine ⟨fun h => ⟨l[b.toNat], ?_⟩, fun h => selectBy_reject (by omega)⟩
  rw [selectBy, List.getElem?_eq_getElem]

/-- Each opcode accepts its legal F bytes and rejects all others (R106). -/
theorem decodeOpcode_accepts {n : Nat} (hn : n < 64) : Accepts (decodeOpcode m b n) (legalF n b.toNat) b := by
  match n, hn with
  | 0, _ | 7, _ | 34, _ | 35, _ | 36, _ | 37, _ | 38, _ => exact ⟨fun _ => ⟨_, rfl⟩, fun h => absurd trivial h⟩
  | 1, _ | 2, _ | 3, _ | 4, _
  | 8, _ | 9, _ | 10, _ | 11, _ | 12, _ | 13, _ | 14, _ | 15, _
  | 16, _ | 17, _ | 18, _ | 19, _ | 20, _ | 21, _ | 22, _ | 23, _
  | 24, _ | 25, _ | 26, _ | 27, _ | 28, _ | 29, _ | 30, _ | 31, _ | 33, _
  | 56, _ | 57, _ | 58, _ | 59, _ | 60, _ | 61, _ | 62, _ | 63, _ => exact withFieldSpec_accepts _
  | 5, _ | 6, _ | 39, _
  | 40, _ | 41, _ | 42, _ | 43, _ | 44, _ | 45, _ | 46, _ | 47, _
  | 48, _ | 49, _ | 50, _ | 51, _ | 52, _ | 53, _ | 54, _ | 55, _ => exact selectBy_accepts rfl
  | 32, _ =>
    change Accepts (if b = 2 then .ok (.stj m) else .reject (.invalidFieldSpec b.toNat)) (b.toNat = 2) b
    by_cases hb : b = 2
    · subst hb
      exact ⟨fun _ => ⟨_, rfl⟩, fun h => absurd rfl h⟩
    · exact ⟨fun h => absurd (BitVec.eq_of_toNat_eq h) hb, fun _ => if_neg hb⟩
  | _ + 64, hn => omega

/-- A word with an accepted index byte is accepted or rejected by its F byte (R108, R511). -/
theorem decode_accepts (h : ¬ 6 < w.b3.toNat) : Accepts (decode w) (legalF w.b5.toNat w.b4.toNat) w.b4 := by
  obtain ⟨ix, hix⟩ := Option.ne_none_iff_exists'.1 fun hnone => h ((decodeIndex_eq_none_iff w.b3).1 hnone)
  simp only [decode, hix]
  exact decodeOpcode_accepts w.b5.isLt

end Sys2Proof

namespace Sys2Proof.Machine

variable {s : State} {i : Instr}

/-- A running machine executes the instruction that the word at PC decodes to (R500). -/
theorem step_of_decode_ok (hrun : s.halt = false) (hpc : s.pc.toNat < Config.memSize)
    (h : decode (s.mem.read s.pc.toNat) = .ok i) : step s = exec i s := by
  have hfetch : fetch s = .run i := by simp only [fetch, hpc, if_true, h]
  simp [step, hrun, hfetch]

end Sys2Proof.Machine

namespace Sys2Proof.Spec

open Sys2Proof.Machine

/-- Settles O8: row by row of the opcode map, the F byte of a field reading back as the field. -/
theorem encodeThenDecodeIsIdentity : Obligations.EncodeThenDecodeIsIdentity := fun _ => decode_encode

/-- Settles O9: row by row of the opcode map, with the address part put together again from its bytes. -/
theorem decodeThenEncodeIsIdentity : Obligations.DecodeThenEncodeIsIdentity := fun _ _ => encode_of_decode_ok

/-- Settles O59: each list by the list of its words, and the other bytes by the one way words are assembled. -/
theorem everyInstructionHasItsCode : Obligations.EveryInstructionHasItsCode := by
  intro m
  refine ⟨fun f => ?fields, ?_, ?_, ?_, ?_, ?_, ?_, ?_, ?_, ?_, ?_, ?_, ?_, ?_, ?_, ?_, ?_, ?_, ?_, ?_, ⟨rfl, rfl⟩,
    fun b => ?bytes, fun i => ?address⟩
  case fields =>
    refine ⟨?_, ?_, ?_, ?_, ?_, ?_⟩ <;> exact opcodesFrom_of_fieldWords (m := m) (by simp) rfl
  case bytes => exact ⟨⟨rfl, rfl⟩, ⟨rfl, rfl⟩, opcodesFrom_of_words (m := m) (b := b) (by simp) rfl⟩
  case address =>
    obtain ⟨hsign, hmag, hindex⟩ := encode_address i
    refine ⟨hsign, hmag, ?_⟩
    rw [hindex]
    generalize (addrOf i).index = ix
    rcases ix with _ | k
    · rfl
    · cases k <;> rfl
  all_goals exact selectorsOf_of_words (m := m) (by decide) (by simp) rfl

/-- The word of NUM is F = 0, that of CHAR F = 1 of opcode 5, and no other word has those codes (R107). -/
theorem scope_iff_num_or_char {i : Instr} {w : Word} (hdec : decode w = .ok i) :
    (w.b5.toNat = 5 ∧ w.b4.toNat ≤ 1) ↔ ∃ m, i = .num m ∨ i = .char m := by
  obtain ⟨-, rfl⟩ := encode_of_decode_ok hdec
  cases i <;> simp [encode, assemble]

/-- Settles O11: the index byte is checked first, then F by the opcode's own list, and what is left decodes. -/
theorem illegalWordsFaultInOrder : Obligations.IllegalWordsFaultInOrder := by
  intro s hrun hpc w bad scope
  have hscope : scope → legalF w.b5.toNat w.b4.toNat := by
    rintro ⟨hc, hf⟩
    rw [hc]
    change w.b4.toNat ≤ 2
    omega
  refine ⟨fun h => step_of_decode_reject hrun hpc (decode_of_invalidIndex h), fun h hf => ?_, fun h hsc => ?_,
    fun h hf hsc => ?_⟩
  · exact step_of_decode_reject hrun hpc ((decode_accepts h).2 hf)
  · obtain ⟨i, hi⟩ := (decode_accepts h).1 (hscope hsc)
    obtain ⟨m, rfl | rfl⟩ := (scope_iff_num_or_char hi).1 hsc
    all_goals
      obtain ⟨-, henc⟩ := encode_of_decode_ok hi
      rw [step_of_decode_ok hrun hpc hi, ← henc]
    · rw [opcodeNumber_of_codedAs (codedAs_num m)]
      exact exec_num m s
    · rw [opcodeNumber_of_codedAs (codedAs_char m)]
      exact exec_char m s
  · obtain ⟨i, hi⟩ := (decode_accepts h).1 hf
    obtain ⟨hwf, henc⟩ := encode_of_decode_ok hi
    refine ⟨i, hwf, henc, fun m => ?_, step_of_decode_ok hrun hpc hi⟩
    have hne : ¬ ∃ m, i = .num m ∨ i = .char m := fun hex => hsc ((scope_iff_num_or_char hi).2 hex)
    exact not_or.1 fun hor => hne ⟨m, hor⟩

/-- Settles O13: the second clause is the first on a word that decodes by O8. -/
theorem stepRunsTheDecodedInstruction : Obligations.StepRunsTheDecodedInstruction := by
  refine ⟨fun s i hrun hpc h => step_of_decode_ok hrun hpc h, fun s i hrun hpc hwf h => ?_⟩
  refine step_of_decode_ok hrun hpc ?_
  rw [h]
  exact decode_encode hwf

/-- Settles O12, by running the decoder on the written-out words. -/
theorem writtenOutWordsDecode : Obligations.WrittenOutWordsDecode := by
  unfold Obligations.WrittenOutWordsDecode
  decide

end Sys2Proof.Spec

/-! The instructions as operations: the 144 rows of the opcode table are the 20 operations of `Op`, and an operation is a
fault that may stop it, a list of writes, and the next PC. Each is tied to the model by `exec_eq_result`; the rules about
who writes and who reads what are then read off the lists of writes. -/

namespace Sys2Proof.Machine

open Spec (addrOf put)

/-! ## Definitions -/

/-- The conditions of the jumps (R361, R362). -/
inductive JumpCond where
  | always
  | ovSet
  | ovClear
  | ci (p : Indicator → Bool)
  | reg (r : Reg) (t : SignTest)

/-- The value of a register. -/
def State.regVal (s : State) : Reg → Int
  | .full r => (s.full r).val
  | .index i => (s.index i).val
  | .jump => s.j.val

/-- The condition in a state. -/
def JumpCond.holds (s : State) : JumpCond → Bool
  | .always => true
  | .ovSet => s.ov
  | .ovClear => !s.ov
  | .ci p => p s.ci
  | .reg r t => t.holds (s.regVal r)

/-- What a taken jump writes beside PC: nothing (JSJ), J (R360), or J and OV (JOV). -/
inductive JumpKind where
  | plain
  | link
  | linkClear

/-- The operations that the instructions share. `g` is the identity, or the negation of the operand. -/
inductive Op where
  | nop
  | hlt
  | stop (e : Fault)
  | addCell (g : Word → Word) (f : FieldSpec)
  | mulCell (f : FieldSpec)
  | divCell (f : FieldSpec)
  | shiftA (op : List Byte → Nat → List Byte)
  | shiftAX (op : List Byte → Nat → List Byte)
  | move (n : Nat)
  | loadFull (g : Word → Word) (r : FullReg) (f : FieldSpec)
  | loadIndex (g : Word → Word) (i : IndexReg) (f : FieldSpec)
  | store (src : Option Reg) (f : FieldSpec)
  | jump (c : JumpCond) (k : JumpKind)
  | addFull (r : FullReg) (g : Int → Int)
  | addIndex (i : IndexReg) (g : Int → Int)
  | enterFull (r : FullReg) (g : Word → Word)
  | enterIndex (i : IndexReg) (g : Word → Word)
  | compare (r : Reg) (f : FieldSpec)

end Sys2Proof.Machine

namespace Sys2Proof

open Machine

/-- The operation of an instruction, beside its address part `addrOf`. -/
def Instr.op : Instr → Op
  | .nop _ _ => .nop
  | .num _ => .stop (.invalidOpcode 320)
  | .char _ => .stop (.invalidOpcode 321)
  | .hlt _ => .hlt
  | .add _ f => .addCell id f
  | .sub _ f => .addCell negate f
  | .mul _ f => .mulCell f
  | .div _ f => .divCell f
  | .sla _ => .shiftA shiftLeft
  | .sra _ => .shiftA shiftRight
  | .slax _ => .shiftAX shiftLeft
  | .srax _ => .shiftAX shiftRight
  | .slc _ => .shiftAX rotateLeft
  | .src _ => .shiftAX rotateRight
  | .move _ n => .move n.toNat
  | .lda _ f => .loadFull id .a f
  | .ld1 _ f => .loadIndex id .i1 f
  | .ld2 _ f => .loadIndex id .i2 f
  | .ld3 _ f => .loadIndex id .i3 f
  | .ld4 _ f => .loadIndex id .i4 f
  | .ld5 _ f => .loadIndex id .i5 f
  | .ld6 _ f => .loadIndex id .i6 f
  | .ldx _ f => .loadFull id .x f
  | .ldan _ f => .loadFull negate .a f
  | .ld1n _ f => .loadIndex negate .i1 f
  | .ld2n _ f => .loadIndex negate .i2 f
  | .ld3n _ f => .loadIndex negate .i3 f
  | .ld4n _ f => .loadIndex negate .i4 f
  | .ld5n _ f => .loadIndex negate .i5 f
  | .ld6n _ f => .loadIndex negate .i6 f
  | .ldxn _ f => .loadFull negate .x f
  | .sta _ f => .store (some (.full .a)) f
  | .st1 _ f => .store (some (.index .i1)) f
  | .st2 _ f => .store (some (.index .i2)) f
  | .st3 _ f => .store (some (.index .i3)) f
  | .st4 _ f => .store (some (.index .i4)) f
  | .st5 _ f => .store (some (.index .i5)) f
  | .st6 _ f => .store (some (.index .i6)) f
  | .stx _ f => .store (some (.full .x)) f
  | .stj _ => .store (some .jump) .stj
  | .stz _ f => .store none f
  | .jbus _ u | .ioc _ u | .inp _ u | .out _ u | .jred _ u => .stop (.noDevice u.toNat)
  | .jmp _ => .jump .always .link
  | .jsj _ => .jump .always .plain
  | .jov _ => .jump .ovSet .linkClear
  | .jnov _ => .jump .ovClear .link
  | .jl _ => .jump (.ci fun c => c == .less) .link
  | .je _ => .jump (.ci fun c => c == .equal) .link
  | .jg _ => .jump (.ci fun c => c == .greater) .link
  | .jge _ => .jump (.ci fun c => c == .greater || c == .equal) .link
  | .jne _ => .jump (.ci fun c => c == .less || c == .greater) .link
  | .jle _ => .jump (.ci fun c => c == .less || c == .equal) .link
  | .jan _ => .jump (.reg (.full .a) .n) .link
  | .jaz _ => .jump (.reg (.full .a) .z) .link
  | .jap _ => .jump (.reg (.full .a) .p) .link
  | .jann _ => .jump (.reg (.full .a) .nn) .link
  | .janz _ => .jump (.reg (.full .a) .nz) .link
  | .janp _ => .jump (.reg (.full .a) .np) .link
  | .j1n _ => .jump (.reg (.index .i1) .n) .link
  | .j1z _ => .jump (.reg (.index .i1) .z) .link
  | .j1p _ => .jump (.reg (.index .i1) .p) .link
  | .j1nn _ => .jump (.reg (.index .i1) .nn) .link
  | .j1nz _ => .jump (.reg (.index .i1) .nz) .link
  | .j1np _ => .jump (.reg (.index .i1) .np) .link
  | .j2n _ => .jump (.reg (.index .i2) .n) .link
  | .j2z _ => .jump (.reg (.index .i2) .z) .link
  | .j2p _ => .jump (.reg (.index .i2) .p) .link
  | .j2nn _ => .jump (.reg (.index .i2) .nn) .link
  | .j2nz _ => .jump (.reg (.index .i2) .nz) .link
  | .j2np _ => .jump (.reg (.index .i2) .np) .link
  | .j3n _ => .jump (.reg (.index .i3) .n) .link
  | .j3z _ => .jump (.reg (.index .i3) .z) .link
  | .j3p _ => .jump (.reg (.index .i3) .p) .link
  | .j3nn _ => .jump (.reg (.index .i3) .nn) .link
  | .j3nz _ => .jump (.reg (.index .i3) .nz) .link
  | .j3np _ => .jump (.reg (.index .i3) .np) .link
  | .j4n _ => .jump (.reg (.index .i4) .n) .link
  | .j4z _ => .jump (.reg (.index .i4) .z) .link
  | .j4p _ => .jump (.reg (.index .i4) .p) .link
  | .j4nn _ => .jump (.reg (.index .i4) .nn) .link
  | .j4nz _ => .jump (.reg (.index .i4) .nz) .link
  | .j4np _ => .jump (.reg (.index .i4) .np) .link
  | .j5n _ => .jump (.reg (.index .i5) .n) .link
  | .j5z _ => .jump (.reg (.index .i5) .z) .link
  | .j5p _ => .jump (.reg (.index .i5) .p) .link
  | .j5nn _ => .jump (.reg (.index .i5) .nn) .link
  | .j5nz _ => .jump (.reg (.index .i5) .nz) .link
  | .j5np _ => .jump (.reg (.index .i5) .np) .link
  | .j6n _ => .jump (.reg (.index .i6) .n) .link
  | .j6z _ => .jump (.reg (.index .i6) .z) .link
  | .j6p _ => .jump (.reg (.index .i6) .p) .link
  | .j6nn _ => .jump (.reg (.index .i6) .nn) .link
  | .j6nz _ => .jump (.reg (.index .i6) .nz) .link
  | .j6np _ => .jump (.reg (.index .i6) .np) .link
  | .jxn _ => .jump (.reg (.full .x) .n) .link
  | .jxz _ => .jump (.reg (.full .x) .z) .link
  | .jxp _ => .jump (.reg (.full .x) .p) .link
  | .jxnn _ => .jump (.reg (.full .x) .nn) .link
  | .jxnz _ => .jump (.reg (.full .x) .nz) .link
  | .jxnp _ => .jump (.reg (.full .x) .np) .link
  | .inca _ => .addFull .a id
  | .deca _ => .addFull .a Neg.neg
  | .enta _ => .enterFull .a id
  | .enna _ => .enterFull .a negate
  | .inc1 _ => .addIndex .i1 id
  | .dec1 _ => .addIndex .i1 Neg.neg
  | .ent1 _ => .enterIndex .i1 id
  | .enn1 _ => .enterIndex .i1 negate
  | .inc2 _ => .addIndex .i2 id
  | .dec2 _ => .addIndex .i2 Neg.neg
  | .ent2 _ => .enterIndex .i2 id
  | .enn2 _ => .enterIndex .i2 negate
  | .inc3 _ => .addIndex .i3 id
  | .dec3 _ => .addIndex .i3 Neg.neg
  | .ent3 _ => .enterIndex .i3 id
  | .enn3 _ => .enterIndex .i3 negate
  | .inc4 _ => .addIndex .i4 id
  | .dec4 _ => .addIndex .i4 Neg.neg
  | .ent4 _ => .enterIndex .i4 id
  | .enn4 _ => .enterIndex .i4 negate
  | .inc5 _ => .addIndex .i5 id
  | .dec5 _ => .addIndex .i5 Neg.neg
  | .ent5 _ => .enterIndex .i5 id
  | .enn5 _ => .enterIndex .i5 negate
  | .inc6 _ => .addIndex .i6 id
  | .dec6 _ => .addIndex .i6 Neg.neg
  | .ent6 _ => .enterIndex .i6 id
  | .enn6 _ => .enterIndex .i6 negate
  | .incx _ => .addFull .x id
  | .decx _ => .addFull .x Neg.neg
  | .entx _ => .enterFull .x id
  | .ennx _ => .enterFull .x negate
  | .cmpa _ f => .compare (.full .a) f
  | .cmp1 _ f => .compare (.index .i1) f
  | .cmp2 _ f => .compare (.index .i2) f
  | .cmp3 _ f => .compare (.index .i3) f
  | .cmp4 _ f => .compare (.index .i4) f
  | .cmp5 _ f => .compare (.index .i5) f
  | .cmp6 _ f => .compare (.index .i6) f
  | .cmpx _ f => .compare (.full .x) f

end Sys2Proof

namespace Sys2Proof.Machine

open Spec (addrOf put)

/-! ## What may stop an operation -/

/-- Go on with `r`, unless there is a fault. -/
def checked : Option Fault → Result → Result
  | none, r => r
  | some e, _ => .fault e

/-- The check of `withAddress`. -/
def addressFault (a : Int) : Option Fault :=
  if 0 ≤ a ∧ a < Config.memSize then none else some (.addressOutOfRange a)

/-- The check of `withCell`. -/
def cellFault (m : Addr) (f : FieldSpec) (s : State) : Option Fault :=
  if f.legal then addressFault (ea m s).val else some (.invalidFieldSpec f.code)

/-- The check of `withHalf`. -/
def halfFault (v : Word) : Option Fault := if v.fitsHalf then none else some (.indexValueOutOfRange v.val)

/-- The check of `withShiftCount`. -/
def countFault (a : Int) : Option Fault := if a < 0 then some (.invalidShiftCount a) else none

/-- The check of `withRun`. -/
def runFault (a : Int) (n : Nat) : Option Fault :=
  (addressFault a).or (if a.toNat + n > Config.memSize then some (.addressOutOfRange Config.memSize) else none)

/-- The address an operand names, once its check has passed. -/
def target (m : Addr) (s : State) : Nat := (ea m s).val.toNat

/-- The word at that address. -/
def cell (m : Addr) (s : State) : Word := s.mem.read (target m s)

/-- The fault that an operation ends in, if one of its checks fails. -/
def Op.stops (m : Addr) (s : State) : Op → Option Fault
  | .stop e => some e
  | .addCell _ f | .mulCell f | .divCell f | .loadFull _ _ f | .store _ f | .compare _ f => cellFault m f s
  | .loadIndex g _ f => (cellFault m f s).or (halfFault (fieldView (g (cell m s)) f))
  | .shiftA _ | .shiftAX _ => countFault (ea m s).val
  | .move n => if n = 0 then none else (runFault (ea m s).val n).or (runFault (s.regVal (.index .i1)) n)
  | .jump c _ => if c.holds s then addressFault (ea m s).val else none
  | .enterIndex _ g => halfFault (g (ea m s).word)
  | .nop | .hlt | .addFull _ _ | .addIndex _ _ | .enterFull _ _ => none

/-! ## What an operation writes -/

/-- One write to the state, PC aside. -/
inductive Write where
  | reg (r : Reg) (v : Word)
  | mem (m : Memory)
  | ov (b : Bool)
  | ci (c : Indicator)
  | halt

/-- The state with the write done. -/
def Write.run (s : State) : Write → State
  | .reg r v => put s r v
  | .mem m => s.setMem m
  | .ov b => s.setOv b
  | .ci c => s.setCi c
  | .halt => s.setHalt

/-- The state with the writes done in order. -/
def runWrites (l : List Write) (s : State) : State := l.foldl Write.run s

/-- The writes of a signed add to a register (R264): the sum, and OV when it overflows. -/
def sumWrites (r : Reg) (v : Word) (overflow : Bool) : List Write := .reg r v :: if overflow then [.ov true] else []

/-- The writes of a signed add to A or X. -/
def addFullWrites (r : FullReg) (d : Int) (s : State) : List Write :=
  let sum := signedAdd (s.full r).sign (s.full r).val d Config.magBits
  sumWrites (.full r) (Word.ofMag sum.sign sum.mag) sum.overflow

/-- The writes of a signed add to an index register. -/
def addIndexWrites (i : IndexReg) (d : Int) (s : State) : List Write :=
  let sum := signedAdd (s.index i).sign (s.index i).val d Config.halfMagBits
  sumWrites (.index i) (pad (Half.ofMag sum.sign sum.mag)) sum.overflow

/-- The writes of `multiply`. -/
def multiplyWrites (v : Word) (s : State) : List Write :=
  [.reg (.full .a) (Word.ofMag (s.a.sign.xor v.sign) (s.a.mag * v.mag / 2 ^ 30)),
    .reg (.full .x) (Word.ofMag (s.a.sign.xor v.sign) (s.a.mag * v.mag % 2 ^ 30))]

/-- The writes of `divide`. -/
def divideWrites (v : Word) (s : State) : List Write :=
  if v.mag = 0 ∨ v.mag ≤ s.a.mag then [.ov true]
  else
    [.reg (.full .a) (Word.ofMag (s.a.sign.xor v.sign) ((s.a.mag * 2 ^ 30 + s.x.mag) / v.mag)),
      .reg (.full .x) (Word.ofMag s.a.sign ((s.a.mag * 2 ^ 30 + s.x.mag) % v.mag))]

/-- The writes of `shiftAX`, of the ten bytes it leaves. -/
def axWrites (bytes : List Byte) (s : State) : List Write :=
  [.reg (.full .a) (Word.ofBytes s.a.sign (bytes.take 5)), .reg (.full .x) (Word.ofBytes s.x.sign (bytes.drop 5))]

/-- The source word of a store: a register, or +0. -/
def sourceWord (s : State) : Option Reg → Word
  | some r => s.readReg r
  | none => .zero

/-- The write of J by a taken jump (R360). -/
def linkWrite (s : State) : Write := .reg .jump (pad (Half.ofMag .plus s.nextAddr))

/-- The writes of a taken jump. -/
def JumpKind.writes (s : State) : JumpKind → List Write
  | .plain => []
  | .link => [linkWrite s]
  | .linkClear => [linkWrite s, .ov false]

/-- The writes of an operation that no check stops. -/
def Op.writes (m : Addr) (s : State) : Op → List Write
  | .nop | .stop _ => []
  | .hlt => [.halt]
  | .addCell g f => addFullWrites .a (g (fieldView (cell m s) f)).val s
  | .mulCell f => multiplyWrites (fieldView (cell m s) f) s
  | .divCell f => divideWrites (fieldView (cell m s) f) s
  | .shiftA op => [.reg (.full .a) (Word.ofBytes s.a.sign (op s.a.bytes (target m s % 5)))]
  | .shiftAX op => axWrites (op (s.a.bytes ++ s.x.bytes) (target m s % 10)) s
  | .move n =>
    if n = 0 then []
    else [.mem (s.mem.writeRun s.i1.val.toNat (s.mem.readRun (target m s) n)),
      .reg (.index .i1) (pad (Half.ofMag .plus (s.i1.val.toNat + n)))]
  | .loadFull g r f => [.reg (.full r) (fieldView (g (cell m s)) f)]
  | .loadIndex g i f => [.reg (.index i) (fieldView (g (cell m s)) f)]
  | .store src f => [.mem (s.mem.write (target m s) (applyField (cell m s) f (sourceWord s src)))]
  | .jump c k => if c.holds s then k.writes s else []
  | .addFull r g => addFullWrites r (g (ea m s).val) s
  | .addIndex i g => addIndexWrites i (g (ea m s).val) s
  | .enterFull r g => [.reg (.full r) (g (ea m s).word)]
  | .enterIndex i g => [.reg (.index i) (g (ea m s).word)]
  | .compare r f => [.ci (compareVals (fieldView (s.readReg r) f).val (fieldView (cell m s) f).val)]

/-- The PC after an operation that no check stops. -/
def Op.nextPc (m : Addr) (s : State) : Op → Nat
  | .jump c _ => if c.holds s then target m s else s.nextAddr
  | _ => s.nextAddr

/-- The state after an operation that no check stops. -/
def Op.after (o : Op) (m : Addr) (s : State) : State := (runWrites (o.writes m s) s).setPc (o.nextPc m s)

/-- What an operation answers. -/
def Op.result (o : Op) (m : Addr) (s : State) : Result := checked (o.stops m s) (.next (o.after m s))

/-! ## The operations of the model in this form -/

variable {m : Addr} {f : FieldSpec} {s t u : State} {r : Reg}

theorem checked_or (e e' : Option Fault) (x : Result) : checked (e.or e') x = checked e (checked e' x) := by
  cases e <;> rfl

theorem checked_eq_next {e : Option Fault} {x : Result} : checked e x = .next t ↔ e = none ∧ x = .next t := by
  cases e <;> simp [checked]

theorem withAddress_eq_checked (a : Int) (k : Nat → Result) : withAddress a k = checked (addressFault a) (k a.toNat) := by
  unfold withAddress addressFault
  split <;> rfl

theorem withCell_eq_checked (k : Nat → Word → Result) :
    withCell m f s k = checked (cellFault m f s) (k (target m s) (cell m s)) := by
  unfold withCell cellFault
  split
  · exact withAddress_eq_checked _ _
  · rfl

theorem withHalf_eq_checked (v : Word) (k : Half → Result) : withHalf v k = checked (halfFault v) (k v.half) := by
  unfold withHalf halfFault
  split <;> rfl

theorem withShiftCount_eq_checked (n : Nat) (k : Nat → Result) :
    withShiftCount m s n k = checked (countFault (ea m s).val) (k (target m s % n)) := by
  unfold withShiftCount countFault
  split <;> rfl

theorem withRun_eq_checked (a : Int) (n : Nat) (k : Nat → Result) : withRun a n k = checked (runFault a n) (k a.toNat) := by
  rw [withRun, withAddress_eq_checked, runFault, checked_or]
  split <;> rfl

/-- A write leaves PC alone. -/
@[simp] theorem Write.run_pc (w : Write) (s : State) : (w.run s).pc = s.pc := by
  rcases w with ⟨_ | _ | _, _⟩ | _ | _ | _ | _ <;> simp [Write.run, put]

theorem runWrites_cons (w : Write) (l : List Write) (s : State) : runWrites (w :: l) s = runWrites l (w.run s) := (rfl)

/-- What holds of a state and is kept by each of the writes holds after them. -/
theorem runWrites_ind {P : State → Prop} {l : List Write} (hs : P s) (h : ∀ w ∈ l, ∀ u, P u → P (w.run u)) :
    P (runWrites l s) := by
  induction l generalizing s with
  | nil => exact hs
  | cons w l ih =>
    rw [List.forall_mem_cons] at h
    exact ih (h.1 s hs) h.2

theorem runWrites_pc (l : List Write) (s : State) : (runWrites l s).pc = s.pc :=
  runWrites_ind (P := fun u => u.pc = s.pc) rfl fun w _ u hu => (w.run_pc u).trans hu

/-- The writes of an operation, then `pc <- next`. -/
theorem finish_runWrites (l : List Write) (s : State) :
    finish (runWrites l s) = .next ((runWrites l s).setPc s.nextAddr) := by
  rw [finish, State.advance, State.nextAddr_eq, runWrites_pc, State.nextAddr_eq]

theorem orOv_eq_runWrites (u : State) (b : Bool) : u.orOv b = runWrites (if b then [.ov true] else []) u := by
  cases b
  · simp [State.orOv, State.setOv, runWrites]
  · simp [State.orOv, runWrites, Write.run]

theorem addFull_eq_finish (r : FullReg) (d : Int) (s : State) : addFull r d s = finish (runWrites (addFullWrites r d s) s) := by
  simp only [addFull, addFullWrites, sumWrites, orOv_eq_runWrites, runWrites_cons, Write.run, put]

theorem addIndex_eq_finish (i : IndexReg) (d : Int) (s : State) :
    addIndex i d s = finish (runWrites (addIndexWrites i d s) s) := by
  simp only [addIndex, addIndexWrites, sumWrites, orOv_eq_runWrites, runWrites_cons, Write.run, put]
  rfl

theorem divide_eq_finish (v : Word) (s : State) : divide v s = finish (runWrites (divideWrites v s) s) := by
  unfold divide divideWrites
  split <;> rfl

theorem addFull_eq_result (r : FullReg) (g : Int → Int) :
    addFull r (g (ea m s).val) s = (Op.addFull r g).result m s := by
  rw [addFull_eq_finish, finish_runWrites]
  rfl

theorem addIndex_eq_result (i : IndexReg) (g : Int → Int) :
    addIndex i (g (ea m s).val) s = (Op.addIndex i g).result m s := by
  rw [addIndex_eq_finish, finish_runWrites]
  rfl

theorem addCell_eq_result (g : Word → Word) :
    (withCell m f s fun _ w => addFull .a (g (fieldView w f)).val s) = (Op.addCell g f).result m s := by
  rw [withCell_eq_checked, addFull_eq_finish, finish_runWrites]
  rfl

theorem mulCell_eq_result : (withCell m f s fun _ w => multiply (fieldView w f) s) = (Op.mulCell f).result m s :=
  withCell_eq_checked _

theorem divCell_eq_result : (withCell m f s fun _ w => divide (fieldView w f) s) = (Op.divCell f).result m s := by
  rw [withCell_eq_checked, divide_eq_finish, finish_runWrites]
  rfl

theorem shiftA_eq_result (op : List Byte → Nat → List Byte) : shiftA op m s = (Op.shiftA op).result m s :=
  withShiftCount_eq_checked _ _

theorem shiftAX_eq_result (op : List Byte → Nat → List Byte) : shiftAX op m s = (Op.shiftAX op).result m s :=
  withShiftCount_eq_checked _ _

theorem moveRun_eq_result (n : Nat) : moveRun n m s = (Op.move n).result m s := by
  rw [moveRun, Op.result, Op.after, Op.stops, Op.writes]
  split
  · rfl
  · rw [withRun_eq_checked, withRun_eq_checked, checked_or]
    rfl

theorem loadFull_eq_result (g : Word → Word) (r : FullReg) : loadFull g r m f s = (Op.loadFull g r f).result m s := by
  rw [loadFull, withCell_eq_checked]
  exact congrArg (checked _) (finish_runWrites [.reg (.full r) (fieldView (g (cell m s)) f)] s)

theorem loadIndex_eq_result (g : Word → Word) (i : IndexReg) : loadIndex g i m f s = (Op.loadIndex g i f).result m s := by
  rw [loadIndex, withCell_eq_checked, withHalf_eq_checked, Op.result, Op.stops, checked_or]
  exact congrArg (fun x => checked _ (checked _ x)) (finish_runWrites [.reg (.index i) (fieldView (g (cell m s)) f)] s)

theorem store_eq_result (src : Option Reg) : store (sourceWord s src) m f s = (Op.store src f).result m s :=
  withCell_eq_checked _

theorem compareField_eq_result (r : Reg) : compareField (s.readReg r) m f s = (Op.compare r f).result m s :=
  withCell_eq_checked _

theorem enterFull_eq_result (r : FullReg) (g : Word → Word) :
    enterFull r (g (ea m s).word) s = (Op.enterFull r g).result m s :=
  finish_runWrites [.reg (.full r) (g (ea m s).word)] s

theorem enterIndex_eq_result (i : IndexReg) (g : Word → Word) :
    enterIndex i (g (ea m s).word) s = (Op.enterIndex i g).result m s := by
  rw [enterIndex, withHalf_eq_checked]
  exact congrArg (checked _) (finish_runWrites [.reg (.index i) (g (ea m s).word)] s)

/-- A jump whose condition is that of `c` and whose writes are those of its kind. -/
theorem jumpIf_eq_result {b : Bool} {w : State → State} {c : JumpCond} {k : JumpKind} (hb : b = c.holds s)
    (hw : w s = runWrites (k.writes s) s) : jumpIf b w m s = (Op.jump c k).result m s := by
  rw [jumpIf, Op.result, Op.after, Op.stops, Op.writes, Op.nextPc, hb]
  split
  · rw [withAddress_eq_checked, hw]
    rfl
  · rfl

/-- Every instruction is its operation on its address part. -/
theorem exec_eq_result (i : Instr) (s : State) : exec i s = i.op.result (addrOf i) s := by
  cases i with
  | jbus | ioc | inp | out | jred => exact deviceHook_eq _
  | add => exact addCell_eq_result id
  | sub => exact addCell_eq_result negate
  | mul => exact mulCell_eq_result
  | div => exact divCell_eq_result
  | nop | num | char | hlt => rfl
  | sla | sra => exact shiftA_eq_result _
  | slax | srax | slc | src => exact shiftAX_eq_result _
  | move => exact moveRun_eq_result _
  | lda | ldx | ldan | ldxn => exact loadFull_eq_result _ _
  | ld1 | ld2 | ld3 | ld4 | ld5 | ld6 | ld1n | ld2n | ld3n | ld4n | ld5n | ld6n => exact loadIndex_eq_result _ _
  | sta => exact store_eq_result (some (.full .a))
  | stx => exact store_eq_result (some (.full .x))
  | st1 => exact store_eq_result (some (.index .i1))
  | st2 => exact store_eq_result (some (.index .i2))
  | st3 => exact store_eq_result (some (.index .i3))
  | st4 => exact store_eq_result (some (.index .i4))
  | st5 => exact store_eq_result (some (.index .i5))
  | st6 => exact store_eq_result (some (.index .i6))
  | stj => exact store_eq_result (f := .stj) (some .jump)
  | stz => exact store_eq_result none
  | cmpa => exact compareField_eq_result (.full .a)
  | cmpx => exact compareField_eq_result (.full .x)
  | cmp1 => exact compareField_eq_result (.index .i1)
  | cmp2 => exact compareField_eq_result (.index .i2)
  | cmp3 => exact compareField_eq_result (.index .i3)
  | cmp4 => exact compareField_eq_result (.index .i4)
  | cmp5 => exact compareField_eq_result (.index .i5)
  | cmp6 => exact compareField_eq_result (.index .i6)
  | inca | incx => exact addFull_eq_result _ id
  | deca | decx => exact addFull_eq_result _ Neg.neg
  | inc1 | inc2 | inc3 | inc4 | inc5 | inc6 => exact addIndex_eq_result _ id
  | dec1 | dec2 | dec3 | dec4 | dec5 | dec6 => exact addIndex_eq_result _ Neg.neg
  | enta | entx => exact enterFull_eq_result _ id
  | enna | ennx => exact enterFull_eq_result _ negate
  | ent1 | ent2 | ent3 | ent4 | ent5 | ent6 => exact enterIndex_eq_result _ id
  | enn1 | enn2 | enn3 | enn4 | enn5 | enn6 => exact enterIndex_eq_result _ negate
  | jmp => exact jumpIf_eq_result (b := true) (w := link) rfl rfl
  | jsj => exact jumpIf_eq_result (b := true) (w := id) rfl rfl
  | jov => exact jumpIf_eq_result (b := s.ov) (w := fun t => (link t).setOv false) rfl rfl
  | _ => exact jumpIf_eq_result (by rfl) (by rfl)

/-- An instruction that completes has passed its checks, and leaves its writes and its next PC. -/
theorem exec_next {i : Instr} (h : exec i s = .next t) : i.op.stops (addrOf i) s = none ∧ t = i.op.after (addrOf i) s := by
  rw [exec_eq_result] at h
  obtain ⟨hstops, hafter⟩ := checked_eq_next.1 h
  cases hafter
  exact ⟨hstops, rfl⟩

end Sys2Proof.Machine

/-! PROOFS of the rules over all instructions: what completes or faults (O15), who writes the flags, J, PC and memory (O46 to
O51), and the invariant (O44, O45, O43). Each rule is read off the writes, the checks and the next PC of the operation. -/

namespace Sys2Proof.Machine

open Spec (addrOf put)

variable {m : Addr} {s t u : State} {r : Reg} {v : Word} {o : Op} {i : Instr} {l : List Write}

/-! ## A register write leaves the rest of the state -/

@[simp] theorem put_ov : (put s r v).ov = s.ov := by rcases r with _ | _ | _ <;> simp [put]
@[simp] theorem put_ci : (put s r v).ci = s.ci := by rcases r with _ | _ | _ <;> simp [put]
@[simp] theorem put_halt : (put s r v).halt = s.halt := by rcases r with _ | _ | _ <;> simp [put]
@[simp] theorem put_mem : (put s r v).mem = s.mem := by rcases r with _ | _ | _ <;> simp [put]

theorem readReg_put_of_ne {q : Reg} (h : q ≠ r) : (put s r v).readReg q = s.readReg q := by
  rcases r with r | r | _ <;> rcases q with q | q | _ <;> simp_all [put, State.readReg]

/-! ## A part of the state is as before the writes, or one of them wrote it -/

theorem runWrites_part {α : Type} (part : State → α) (wrote : α → Write → Prop)
    (h : ∀ w u, part (w.run u) = part u ∨ wrote (part (w.run u)) w) (l : List Write) (s : State) :
    part (runWrites l s) = part s ∨ ∃ w ∈ l, wrote (part (runWrites l s)) w := by
  refine runWrites_ind (P := fun u => part u = part s ∨ ∃ w ∈ l, wrote (part u) w) (.inl rfl) fun w hw u hu => ?_
  rcases h w u with hsame | hwrote
  · rwa [hsame]
  · exact .inr ⟨w, hw, hwrote⟩

theorem runWrites_ov (l : List Write) (s : State) : (runWrites l s).ov = s.ov ∨ .ov (runWrites l s).ov ∈ l := by
  simpa using runWrites_part State.ov (fun b w => w = .ov b) (fun w u => by cases w <;> simp [Write.run]) l s

theorem runWrites_ci (l : List Write) (s : State) : (runWrites l s).ci = s.ci ∨ .ci (runWrites l s).ci ∈ l := by
  simpa using runWrites_part State.ci (fun c w => w = .ci c) (fun w u => by cases w <;> simp [Write.run]) l s

theorem runWrites_mem (l : List Write) (s : State) : (runWrites l s).mem = s.mem ∨ .mem (runWrites l s).mem ∈ l := by
  simpa using runWrites_part State.mem (fun m w => w = .mem m) (fun w u => by cases w <;> simp [Write.run]) l s

theorem runWrites_halt (l : List Write) (s : State) : (runWrites l s).halt = s.halt ∨ .halt ∈ l := by
  simpa using runWrites_part State.halt (fun _ w => w = .halt) (fun w u => by cases w <;> simp [Write.run]) l s

theorem Write.run_readReg (w : Write) (u : State) (r : Reg) : (w.run u).readReg r = u.readReg r ∨ ∃ v, w = .reg r v := by
  cases w with
  | reg q v =>
    by_cases hq : r = q
    · exact .inr ⟨v, hq ▸ rfl⟩
    · exact .inl (readReg_put_of_ne hq)
  | _ => rcases r with _ | _ | _ <;> simp [Write.run, State.readReg]

theorem runWrites_readReg (l : List Write) (s : State) (r : Reg) :
    (runWrites l s).readReg r = s.readReg r ∨ ∃ v, .reg r v ∈ l := by
  refine (runWrites_part (·.readReg r) (fun _ w => ∃ v, w = .reg r v) (fun w u => w.run_readReg u r) l s).imp_right ?_
  rintro ⟨_, hmem, v, rfl⟩
  exact ⟨v, hmem⟩

theorem readReg_setPc (s : State) (n : Nat) (r : Reg) : (s.setPc n).readReg r = s.readReg r := by
  rcases r with _ | _ | _ <;> simp [State.readReg]

/-! ## The writes of each operation -/

/-- The operations that set OV. -/
def Op.mayOverflow : Op → Bool
  | .addCell _ _ | .divCell _ | .addFull _ _ | .addIndex _ _ => true
  | _ => false

/-- The operations that write memory. -/
def Op.writesMemory : Op → Bool
  | .move _ | .store _ _ => true
  | _ => false

/-- The operations that write CI. -/
def Op.isCompare : Op → Bool
  | .compare _ _ => true
  | _ => false

/-- The jumps. -/
def Op.isJump : Op → Bool
  | .jump _ _ => true
  | _ => false

theorem mayOverflow_eq (i : Instr) : Spec.mayOverflow i = i.op.mayOverflow := by cases i <;> rfl

theorem writesMemory_eq (i : Instr) : Spec.writesMemory i = i.op.writesMemory := by cases i <;> rfl

theorem isCompare_eq (i : Instr) : Spec.isCompare i = i.op.isCompare := by cases i <;> rfl

theorem isJump_eq (i : Instr) : Spec.isJump i = i.op.isJump := by cases i <;> rfl

theorem eq_hlt_of_op (h : i.op = .hlt) : ∃ m, i = .hlt m := by
  cases i <;> cases h
  exact ⟨_, rfl⟩

theorem eq_jov_of_op {c : JumpCond} (h : i.op = .jump c .linkClear) : ∃ m, i = .jov m := by
  cases i <;> cases h
  exact ⟨_, rfl⟩

/-- The registers an operation writes. -/
def Op.dest : Op → List Reg
  | .addCell _ _ | .shiftA _ => [.full .a]
  | .mulCell _ | .divCell _ | .shiftAX _ => [.full .a, .full .x]
  | .move _ => [.index .i1]
  | .loadFull _ r _ | .addFull r _ | .enterFull r _ => [.full r]
  | .loadIndex _ i _ | .addIndex i _ | .enterIndex i _ => [.index i]
  | .jump _ .link | .jump _ .linkClear => [.jump]
  | .jump _ .plain | .nop | .hlt | .stop _ | .store _ _ | .compare _ _ => []

/-- The writes an operation may do: OV is set by an overflow and cleared by a taken JOV. -/
def Op.MayWrite (o : Op) (s : State) : Write → Prop
  | .reg r _ => r ∈ o.dest
  | .mem _ => o.writesMemory = true
  | .ov true => o.mayOverflow = true
  | .ov false => ∃ c, o = .jump c .linkClear ∧ c.holds s = true
  | .ci c => o.isCompare = true ∧ c ≠ .unset
  | .halt => o = .hlt

theorem compareVals_ne_unset (a b : Int) : compareVals a b ≠ .unset := by
  unfold compareVals
  split
  · simp
  · split <;> simp

/-- The writes of a taken jump are done only where its condition holds. -/
theorem mem_jump_writes {c : JumpCond} {k : JumpKind} {w : Write} (h : w ∈ (Op.jump c k).writes m s) :
    c.holds s = true ∧ w ∈ k.writes s := by
  rw [Op.writes] at h
  split at h
  · exact ⟨by assumption, h⟩
  · cases h

theorem mem_sumWrites {b : Bool} {w : Write} (h : w ∈ sumWrites r v b) : w = .reg r v ∨ w = .ov true := by
  cases b
  · exact .inl (List.mem_singleton.1 h)
  · exact List.mem_pair.1 h

theorem mayWrite_of_mem_writes {w : Write} (h : w ∈ o.writes m s) : o.MayWrite s w := by
  cases o with
  | nop | stop => cases h
  | hlt =>
    cases List.mem_singleton.1 h
    rfl
  | addCell | addFull | addIndex =>
    rcases mem_sumWrites h with rfl | rfl
    · exact List.mem_singleton.2 rfl
    · rfl
  | mulCell | shiftAX =>
    rcases List.mem_pair.1 h with rfl | rfl <;> simp [Op.MayWrite, Op.dest]
  | divCell =>
    simp only [Op.writes, divideWrites] at h
    split at h
    · cases List.mem_singleton.1 h
      rfl
    · rcases List.mem_pair.1 h with rfl | rfl <;> simp [Op.MayWrite, Op.dest]
  | move =>
    rw [Op.writes] at h
    split at h
    · cases h
    · rcases List.mem_pair.1 h with rfl | rfl
      · rfl
      · exact List.mem_singleton.2 rfl
  | shiftA | loadFull | loadIndex | enterFull | enterIndex =>
    cases List.mem_singleton.1 h
    exact List.mem_singleton.2 rfl
  | store =>
    cases List.mem_singleton.1 h
    rfl
  | compare =>
    cases List.mem_singleton.1 h
    exact ⟨rfl, compareVals_ne_unset _ _⟩
  | jump c k =>
    obtain ⟨hc, hk⟩ := mem_jump_writes h
    cases k with
    | plain => cases hk
    | link =>
      cases List.mem_singleton.1 hk
      exact List.mem_singleton.2 rfl
    | linkClear =>
      rcases List.mem_pair.1 hk with rfl | rfl
      · exact List.mem_singleton.2 rfl
      · exact ⟨c, rfl, hc⟩

/-! ## The rules -/

/-- A completed instruction leaves OV, or is one that overflows and sets it, or is a taken JOV and clears it (R50). -/
theorem exec_ov (h : exec i s = .next t) :
    t.ov = s.ov ∨ (t.ov = true ∧ i.op.mayOverflow = true) ∨
      (t.ov = false ∧ ∃ c, i.op = .jump c .linkClear ∧ c.holds s = true) := by
  obtain ⟨-, rfl⟩ := exec_next h
  refine (runWrites_ov _ s).imp_right fun hmem => ?_
  have hmay := mayWrite_of_mem_writes hmem
  cases hov : (i.op.after (addrOf i) s).ov
  all_goals
    change (runWrites _ s).ov = _ at hov
    rw [hov] at hmay
  · exact .inr ⟨rfl, hmay⟩
  · exact .inl ⟨rfl, hmay⟩

/-- Only a compare writes CI, and never to UNSET (R51). -/
theorem exec_ci (h : exec i s = .next t) : t.ci = s.ci ∨ (i.op.isCompare = true ∧ t.ci ≠ .unset) := by
  obtain ⟨-, rfl⟩ := exec_next h
  exact (runWrites_ci _ s).imp_right mayWrite_of_mem_writes

/-- A compare leaves CI set (R340). -/
theorem exec_ci_of_isCompare (hi : i.op.isCompare = true) (h : exec i s = .next t) : t.ci ≠ .unset := by
  obtain ⟨-, rfl⟩ := exec_next h
  generalize i.op = o at hi
  cases o <;> cases hi
  exact compareVals_ne_unset _ _

/-- Only HLT writes HALT (R52). -/
theorem exec_halt (h : exec i s = .next t) : t.halt = s.halt ∨ i.op = .hlt := by
  obtain ⟨-, rfl⟩ := exec_next h
  exact (runWrites_halt _ s).imp_right mayWrite_of_mem_writes

/-- Only a store or MOVE writes memory (R86). -/
theorem exec_mem (h : exec i s = .next t) : t.mem = s.mem ∨ i.op.writesMemory = true := by
  obtain ⟨-, rfl⟩ := exec_next h
  exact (runWrites_mem _ s).imp_right mayWrite_of_mem_writes

theorem addressFault_eq_none {a : Int} : addressFault a = none ↔ 0 ≤ a ∧ a < Config.memSize := by
  unfold addressFault
  split <;> simp_all

/-- The next PC is the following address, or the target of a taken jump, which has been checked (R113, R360). -/
theorem nextPc_cases (h : o.stops m s = none) :
    o.nextPc m s = s.nextAddr ∨
      (o.isJump = true ∧ 0 ≤ (ea m s).val ∧ (ea m s).val < Config.memSize ∧ o.nextPc m s = target m s) := by
  cases o with
  | jump c k =>
    rw [Op.stops] at h
    rw [Op.nextPc]
    split
    · rw [if_pos (by assumption), addressFault_eq_none] at h
      exact .inr ⟨rfl, h.1, h.2, rfl⟩
    · exact .inl rfl
  | _ => exact .inl rfl

/-- PC after a completed instruction fetched from memory (R49, R113). -/
theorem exec_pc (hpc : s.pc.toNat < Config.memSize) (h : exec i s = .next t) :
    t.pc.toNat = s.pc.toNat + 1 ∨
      (i.op.isJump = true ∧ 0 ≤ (ea (addrOf i) s).val ∧ (ea (addrOf i) s).val < Config.memSize ∧
        (t.pc.toNat : Int) = (ea (addrOf i) s).val) := by
  have hsize : Config.memSize = 4000 := rfl
  obtain ⟨hstops, rfl⟩ := exec_next h
  refine (nextPc_cases hstops).imp (fun hn => ?_) fun ⟨hj, h0, h1, hn⟩ => ⟨hj, h0, h1, ?_⟩
  all_goals rw [Op.after, hn, toNat_setPc]
  · rfl
  · rw [State.nextAddr_eq]
    omega
  · exact Int.toNat_of_nonneg h0
  · unfold target
    omega

/-- A completed instruction leaves every register that its operation does not write (R48). -/
theorem exec_readReg (h : exec i s = .next t) : t.readReg r = s.readReg r ∨ r ∈ i.op.dest := by
  obtain ⟨-, rfl⟩ := exec_next h
  rw [Op.after, readReg_setPc]
  exact (runWrites_readReg _ s r).imp_right fun ⟨_, hv⟩ => mayWrite_of_mem_writes hv

/-- An operation that writes J is a jump, of a kind that does, whose condition holds (R46, R360). -/
theorem jump_of_mem_writes (h : .reg .jump v ∈ o.writes m s) : ∃ c k, o = .jump c k ∧ k ≠ .plain ∧ c.holds s = true := by
  have hdest : Reg.jump ∈ o.dest := mayWrite_of_mem_writes h
  cases o with
  | jump c k =>
    refine ⟨c, k, rfl, ?_, (mem_jump_writes h).1⟩
    rintro rfl
    cases hdest
  | _ => simp [Op.dest] at hdest

/-- A completed instruction that changes J is a taken jump. -/
theorem exec_j_ne (h : exec i s = .next t) (hne : t.j ≠ s.j) :
    ∃ c k, i.op = .jump c k ∧ k ≠ .plain ∧ c.holds s = true := by
  obtain ⟨-, rfl⟩ := exec_next h
  obtain hsame | ⟨v, hv⟩ := runWrites_readReg (i.op.writes (addrOf i) s) s .jump
  · exact absurd (congrArg Word.half hsame) hne
  · exact jump_of_mem_writes hv

/-- A taken jump goes to its effective address, which lies in memory. -/
theorem exec_jump_pc {c : JumpCond} {k : JumpKind} (hop : i.op = .jump c k) (hc : c.holds s = true)
    (h : exec i s = .next t) : (t.pc.toNat : Int) = (ea (addrOf i) s).val := by
  have hsize : Config.memSize = 4000 := rfl
  obtain ⟨hstops, rfl⟩ := exec_next h
  rw [hop, Op.stops, if_pos hc, addressFault_eq_none] at hstops
  rw [Op.after, hop, Op.nextPc, if_pos hc, toNat_setPc (by unfold target; omega)]
  exact Int.toNat_of_nonneg hstops.1

/-! ## The invariant -/

theorem cellFault_eq_none {f : FieldSpec} (h : cellFault m f s = none) :
    f.legal = true ∧ 0 ≤ (ea m s).val ∧ (ea m s).val < Config.memSize := by
  unfold cellFault at h
  split at h
  · exact ⟨by assumption, addressFault_eq_none.1 h⟩
  · cases h

theorem runFault_eq_none {a : Int} {n : Nat} (h : runFault a n = none) : 0 ≤ a ∧ a.toNat + n ≤ Config.memSize := by
  obtain ⟨haddr, hend⟩ := Option.or_eq_none_iff.1 h
  refine ⟨(addressFault_eq_none.1 haddr).1, ?_⟩
  by_contra hgt
  rw [if_pos (by omega)] at hend
  cases hend

/-- What a store or MOVE makes of a canonical memory is canonical: it writes inside memory (R82). -/
theorem wf_of_mem_writes {mem : Memory} (hwf : s.mem.wf = true) (hstops : o.stops m s = none)
    (h : .mem mem ∈ o.writes m s) : mem.wf = true := by
  have hmay : o.writesMemory = true := mayWrite_of_mem_writes h
  cases o with
  | store src f =>
    cases List.mem_singleton.1 h
    obtain ⟨-, h0, h1⟩ := cellFault_eq_none hstops
    exact Memory.write_wf hwf _ ((Int.toNat_lt h0).2 h1)
  | move n =>
    rw [Op.writes] at h
    rw [Op.stops] at hstops
    split at h
    · cases h
    · rename_i hn
      rw [if_neg hn, Option.or_eq_none_iff] at hstops
      obtain ⟨-, hend⟩ := runFault_eq_none hstops.2
      obtain hmem | hreg := List.mem_pair.1 h
      · cases hmem
        refine Memory.writeRun_wf hwf _ _ ?_
        rwa [Memory.length_readRun]
      · cases hreg
  | _ => cases hmay

theorem exec_mem_wf (hwf : s.mem.wf = true) (h : exec i s = .next t) : t.mem.wf = true := by
  obtain ⟨hstops, rfl⟩ := exec_next h
  change (runWrites _ s).mem.wf = true
  rcases runWrites_mem (i.op.writes (addrOf i) s) s with hsame | hmem
  · rwa [hsame]
  · exact wf_of_mem_writes hwf hstops hmem

/-- An instruction is fetched from a PC in memory only (R512). -/
theorem pc_lt_of_fetch (h : fetch s = .run i) : s.pc.toNat < Config.memSize := by
  by_contra hpc
  rw [fetch, if_neg hpc] at h
  cases h

/-- A step keeps the invariant: a halted machine stays as it is; the instruction executed keeps memory canonical and J
positive, and leaves PC at most one past a PC of memory. -/
theorem step_inv (hs : s.Inv) (h : step s = .next t) : t.Inv := by
  refine ⟨?_, step_j_plus hs.jumpPositive h, ?_⟩
  all_goals obtain ⟨-, rfl⟩ | ⟨-, i, hfetch, hexec⟩ := step_eq_next.1 h
  · exact hs.memCanonical
  · exact exec_mem_wf hs.memCanonical hexec
  · exact hs.pcBound
  · have hpc := pc_lt_of_fetch hfetch
    rcases exec_pc hpc hexec with hnext | ⟨-, -, hlt, htarget⟩ <;> omega

/-- A booted state has the invariant: reset, then words written inside memory (R540, R544). -/
theorem booted_inv (h : Booted s) : s.Inv := by
  induction h with
  | reset start hstart => exact ⟨rfl, rfl, hstart.le⟩
  | load s a w _ ha ih => exact ⟨Memory.write_wf ih.memCanonical w ha, ih.jumpPositive, ih.pcBound⟩

theorem reachable_inv (h : Reachable s) : s.Inv := by
  induction h with
  | boot s hs => exact booted_inv hs
  | step s t _ hstep ih => exact step_inv ih hstep

/-- No step makes CI UNSET (R51). -/
theorem step_ci_ne_unset (hs : s.ci ≠ .unset) (h : step s = .next t) : t.ci ≠ .unset := by
  obtain ⟨-, rfl⟩ | ⟨-, i, -, hexec⟩ := step_eq_next.1 h
  · exact hs
  · rcases exec_ci hexec with hsame | ⟨-, hset⟩
    · rwa [hsame]
    · exact hset

/-! ## No refusal -/

/-- The result is a next state or a fault. -/
def Answers (r : Result) : Prop := (∃ t, r = .next t) ∨ ∃ f, r = .fault f

theorem exec_answers (i : Instr) (s : State) : Answers (exec i s) := by
  rw [exec_eq_result, Op.result]
  cases i.op.stops (addrOf i) s with
  | none => exact .inl ⟨_, rfl⟩
  | some e => exact .inr ⟨e, rfl⟩

theorem step_answers (s : State) : Answers (step s) := by
  unfold step
  split
  · exact .inl ⟨s, rfl⟩
  · split
    · exact exec_answers _ s
    · exact .inr ⟨_, rfl⟩

end Sys2Proof.Machine

namespace Sys2Proof.Spec

open Sys2Proof.Machine

/-- Settles O44: memory by the writes of stores and MOVE, J by its one write, PC by the next PC. -/
theorem everyStepKeepsTheInvariant : Obligations.EveryStepKeepsTheInvariant := fun _ _ => step_inv

/-- Settles O43: State.reset is the reset at start 0. -/
theorem invariantHoldsAfterBoot : Obligations.InvariantHoldsAfterBoot :=
  ⟨booted_inv (.reset Config.start (by decide)), fun _ => booted_inv⟩

/-- Settles O45, by induction on the run and its boot. -/
theorem reachableStatesAreLegal : Obligations.ReachableStatesAreLegal :=
  ⟨fun _ => reachable_inv, fun _ _ => step_ci_ne_unset⟩

/-- Settles O15: an operation answers its fault or its next state. -/
theorem stepIsNeverRefused : Obligations.StepIsNeverRefused := fun s => ⟨fun i => exec_answers i s, step_answers s⟩

/-- Settles O46: OV is written by an overflow, which sets it, or by a taken JOV. -/
theorem overflowToggleRule : Obligations.OverflowToggleRule := by
  intro i s t h
  rw [mayOverflow_eq]
  rcases exec_ov h with hsame | ⟨hset, hmay⟩ | ⟨hclear, c, hop, hc⟩
  · simp_all
  · exact ⟨fun _ _ => hmay, fun _ ht => by simp_all⟩
  · refine ⟨fun _ ht => by simp_all, fun _ _ => ?_⟩
    have htarget := exec_jump_pc hop hc h
    obtain ⟨m, rfl⟩ := eq_jov_of_op hop
    exact ⟨m, rfl, htarget⟩

/-- Settles O47: a compare is the one operation that writes CI, with a comparison's result. -/
theorem comparisonIndicatorRule : Obligations.ComparisonIndicatorRule := by
  intro i s t h
  rw [isCompare_eq]
  exact ⟨fun hno => (exec_ci h).resolve_right fun hyes => by simp_all, fun hyes => exec_ci_of_isCompare hyes h⟩

/-- Settles O48: a changed J was written by a taken jump that links. -/
theorem jumpRegisterRule : Obligations.JumpRegisterRule := by
  intro i s t hpc h hne
  obtain ⟨c, k, hop, hk, hc⟩ := exec_j_ne h hne
  have hj : t.j = Half.ofMag .plus (s.pc.toNat + 1) := (exec_j h).resolve_left hne
  refine ⟨?_, ?_, exec_jump_pc hop hc h, ?_, ?_⟩
  · rw [isJump_eq, hop]
    rfl
  · rintro m rfl
    cases hop
    exact hk rfl
  · rw [hj, Half.sign_ofMag]
  · rw [hj, Half.mag_ofMag_of_lt]
    omega

/-- Settles O49: the next PC of an operation, which the check of a taken jump keeps in memory. -/
theorem programCounterRule : Obligations.ProgramCounterRule := by
  intro i s t hpc h
  rw [isJump_eq]
  refine (exec_pc hpc h).imp_right fun ⟨hj, h0, h1, htarget⟩ => ⟨hj, ?_, htarget⟩
  rintro (hneg | hbig)
  · omega
  · exact absurd h1 (Int.not_lt.2 hbig)

/-- Settles O50: HALT is written by HLT, and to 1 only. -/
theorem haltFlagRule : Obligations.HaltFlagRule := by
  intro i s t h
  constructor
  · intro ht
    exact (exec_halt h).imp (fun hsame => hsame.symm.trans ht) eq_hlt_of_op
  · rintro (hs | ⟨m, rfl⟩)
    · obtain hsame | hop := exec_halt h
      · rw [hsame, hs]
      · obtain ⟨m, rfl⟩ := eq_hlt_of_op hop
        rw [finish_next h]
        rfl
    · rw [finish_next h]
      rfl

/-- Settles O51: memory is written by the stores and MOVE. -/
theorem memoryWritersRule : Obligations.MemoryWritersRule := by
  intro i s t h hno
  rw [writesMemory_eq] at hno
  have hsame : t.mem = s.mem := (exec_mem h).resolve_right fun hyes => by simp_all
  exact ⟨hsame, fun a => by rw [hsame]⟩

end Sys2Proof.Spec

/-! PROOFS of the statements on who reads what (O52, O53): an operation computes its checks, its writes and its next PC from
its inputs alone, and the same writes done to two states that differ in one part give states that differ there at most. -/

namespace Sys2Proof.Machine

open Spec (addrOf put readsReg writesReg agreeBut agreeUpTo)

variable {m : Addr} {s s' t : State} {r q : Reg} {v : Word} {o : Op} {i : Instr} {c : JumpCond}

/-! ## The inputs of an operation -/

/-- The registers an operation reads, its index register aside. -/
def Op.sources : Op → List Reg
  | .addCell _ _ | .mulCell _ | .shiftA _ => [.full .a]
  | .divCell _ | .shiftAX _ => [.full .a, .full .x]
  | .move _ => [.index .i1]
  | .store src _ => src.toList
  | .jump (.reg r _) _ => [r]
  | .addFull r _ => [.full r]
  | .addIndex i _ => [.index i]
  | .compare r _ => [r]
  | .jump _ _ | .nop | .hlt | .stop _ | .loadFull _ _ _ | .loadIndex _ _ _ | .enterFull _ _ | .enterIndex _ _ => []

/-- Two states in which an operation finds the same inputs. -/
structure SameInputs (o : Op) (m : Addr) (s s' : State) : Prop where
  ea_eq : ea m s' = ea m s
  mem_eq : s'.mem = s.mem
  pc_eq : s'.pc = s.pc
  readReg_eq : ∀ r ∈ o.sources, s'.readReg r = s.readReg r
  holds_eq : ∀ c k, o = .jump c k → c.holds s' = c.holds s

section
variable (h : SameInputs o m s s')
include h

theorem SameInputs.target_eq : target m s' = target m s := by rw [target, target, h.ea_eq]

theorem SameInputs.cell_eq : cell m s' = cell m s := by rw [cell, cell, h.mem_eq, h.target_eq]

theorem SameInputs.nextAddr_eq : s'.nextAddr = s.nextAddr := by rw [State.nextAddr_eq, State.nextAddr_eq, h.pc_eq]

theorem SameInputs.full_eq {r : FullReg} (hr : .full r ∈ o.sources) : s'.full r = s.full r := h.readReg_eq _ hr

theorem SameInputs.index_eq {i : IndexReg} (hi : .index i ∈ o.sources) : s'.index i = s.index i :=
  congrArg Word.half (h.readReg_eq _ hi)

theorem SameInputs.cellFault_eq (f : FieldSpec) : cellFault m f s' = cellFault m f s := by
  rw [cellFault, cellFault, h.ea_eq]

/-- The same inputs fail the same checks. -/
theorem SameInputs.stops_eq : o.stops m s' = o.stops m s := by
  cases o with
  | addCell | mulCell | divCell | loadFull | store | compare => exact h.cellFault_eq _
  | loadIndex => simp only [Op.stops, h.cellFault_eq, h.cell_eq]
  | move n =>
    have hi1 : s'.index .i1 = s.index .i1 := h.index_eq (List.mem_singleton.2 rfl)
    simp only [Op.stops, State.regVal, h.ea_eq, hi1]
  | jump c k => simp only [Op.stops, h.ea_eq, h.holds_eq c k rfl]
  | shiftA | shiftAX | enterIndex => simp only [Op.stops, h.ea_eq]
  | nop | hlt | stop | addFull | addIndex | enterFull => rfl

/-- From the same inputs come the same writes. -/
theorem SameInputs.writes_eq : o.writes m s' = o.writes m s := by
  have hea := h.ea_eq
  have htarget := h.target_eq
  have hcell := h.cell_eq
  cases o with
  | nop | hlt | stop => rfl
  | addCell =>
    have ha := h.full_eq (r := .a) (List.mem_singleton.2 rfl)
    simp only [Op.writes, addFullWrites, hcell, ha]
  | mulCell =>
    have ha : s'.a = s.a := h.full_eq (r := .a) (List.mem_singleton.2 rfl)
    simp only [Op.writes, multiplyWrites, hcell, ha]
  | divCell =>
    have ha : s'.a = s.a := h.full_eq (r := .a) (by simp [Op.sources])
    have hx : s'.x = s.x := h.full_eq (r := .x) (by simp [Op.sources])
    simp only [Op.writes, divideWrites, hcell, ha, hx]
  | shiftA =>
    have ha : s'.a = s.a := h.full_eq (r := .a) (List.mem_singleton.2 rfl)
    simp only [Op.writes, htarget, ha]
  | shiftAX =>
    have ha : s'.a = s.a := h.full_eq (r := .a) (by simp [Op.sources])
    have hx : s'.x = s.x := h.full_eq (r := .x) (by simp [Op.sources])
    simp only [Op.writes, axWrites, htarget, ha, hx]
  | move =>
    have hi1 : s'.i1 = s.i1 := h.index_eq (i := .i1) (List.mem_singleton.2 rfl)
    simp only [Op.writes, htarget, h.mem_eq, hi1]
  | loadFull | loadIndex => simp only [Op.writes, hcell]
  | store src =>
    have hsrc : sourceWord s' src = sourceWord s src := by
      cases src with
      | none => rfl
      | some r => exact h.readReg_eq r (List.mem_singleton.2 rfl)
    simp only [Op.writes, htarget, hcell, h.mem_eq, hsrc]
  | jump c k =>
    have hk : k.writes s' = k.writes s := by cases k <;> simp only [JumpKind.writes, linkWrite, h.nextAddr_eq]
    simp only [Op.writes, h.holds_eq c k rfl, hk]
  | addFull r =>
    have hr := h.full_eq (r := r) (List.mem_singleton.2 rfl)
    simp only [Op.writes, addFullWrites, hea, hr]
  | addIndex i =>
    have hi := h.index_eq (i := i) (List.mem_singleton.2 rfl)
    simp only [Op.writes, addIndexWrites, hea, hi]
  | enterFull | enterIndex => simp only [Op.writes, hea]
  | compare r =>
    have hr := h.readReg_eq r (List.mem_singleton.2 rfl)
    simp only [Op.writes, hcell, hr]

/-- From the same inputs comes the same next PC. -/
theorem SameInputs.nextPc_eq : o.nextPc m s' = o.nextPc m s := by
  cases o with
  | jump c k => simp only [Op.nextPc, h.target_eq, h.nextAddr_eq, h.holds_eq c k rfl]
  | _ => exact h.nextAddr_eq

end

/-! ## Two states that differ in one register -/

theorem readReg_put_same (s s' : State) (r : Reg) (v : Word) : (put s r v).readReg r = (put s' r v).readReg r := by
  rcases r with r | r | _ <;> simp [put, State.readReg]

/-- Of two register writes, the later one decides; writes of two registers can be done in either order. -/
theorem put_put (s : State) (r q : Reg) (v w : Word) :
    put (put s r v) q w = if r = q then put s q w else put (put s q w) r v := by
  rcases r with (_ | _) | (_ | _ | _ | _ | _ | _) | _ <;> rcases q with (_ | _) | (_ | _ | _ | _ | _ | _) | _ <;> rfl

theorem put_put_same (s : State) (r : Reg) (v w : Word) : put (put s r v) r w = put s r w := by
  rw [put_put, if_pos rfl]

theorem put_put_comm (h : r ≠ q) (v w : Word) : put (put s r v) q w = put (put s q w) r v := by
  rw [put_put, if_neg h]

/-- Writing a register's own contents back changes nothing (J's sign is +). -/
theorem put_readReg (hj : s.j.sign = .plus) : put s r (s.readReg r) = s := by
  rcases r with (_ | _) | (_ | _ | _ | _ | _ | _) | _
  case jump =>
    rcases s with ⟨a, x, i1, i2, i3, i4, i5, i6, ⟨sg, h1, h2⟩, pc, ov, ci, halt, mem⟩
    cases hj
    rfl
  all_goals rfl

theorem put_setPc (n : Nat) : (put s r v).setPc n = put (s.setPc n) r v := by
  rcases r with (_ | _) | (_ | _ | _ | _ | _ | _) | _ <;> rfl

/-- A write to two states that differ in one register: it is that register, and they become the same; or they still differ
there only, and the register is as it was. -/
theorem Write.run_put (w : Write) (s : State) (r : Reg) (v : Word) :
    w.run (put s r v) = w.run s ∨
      (w.run (put s r v) = put (w.run s) r v ∧ (w.run s).readReg r = s.readReg r) := by
  cases w with
  | reg q u =>
    by_cases hq : r = q
    · exact .inl (hq ▸ put_put_same s r v u)
    · exact .inr ⟨put_put_comm hq v u, readReg_put_of_ne hq⟩
  | _ =>
    refine .inr ⟨?_, ?_⟩ <;> rcases r with (_ | _) | (_ | _ | _ | _ | _ | _) | _ <;> rfl

theorem runWrites_put (l : List Write) (s : State) (r : Reg) (v : Word) :
    runWrites l (put s r v) = runWrites l s ∨
      (runWrites l (put s r v) = put (runWrites l s) r v ∧ (runWrites l s).readReg r = s.readReg r) := by
  induction l generalizing s with
  | nil => exact .inr ⟨rfl, rfl⟩
  | cons w l ih =>
    simp only [runWrites_cons]
    rcases w.run_put s r v with heq | ⟨heq, hkeep⟩
    · exact .inl (by rw [heq])
    · rw [heq]
      exact (ih (w.run s)).imp_right fun ⟨hput, hread⟩ => ⟨hput, hread.trans hkeep⟩

theorem runWrites_j_plus (l : List Write) (hj : s.j.sign = .plus) : (runWrites l s).j.sign = .plus := by
  refine runWrites_ind (P := fun u => u.j.sign = .plus) hj fun w _ u hu => ?_
  rcases w with ⟨_ | _ | _, _⟩ | _ | _ | _ | _ <;> simp [Write.run, put, hu]

/-- The same inputs, in states that differ in one register: the outcomes agree. -/
theorem result_agreeBut (hj : s.j.sign = .plus) (h : SameInputs o m s (put s r v)) :
    agreeBut r s (put s r v) (o.result m s) (o.result m (put s r v)) := by
  rw [Op.result, Op.result, h.stops_eq, Op.after, Op.after, h.writes_eq, h.nextPc_eq]
  cases o.stops m s with
  | some e => exact rfl
  | none =>
    have hj' : ((runWrites (o.writes m s) s).setPc (o.nextPc m s)).j.sign = .plus := runWrites_j_plus _ hj
    rcases runWrites_put (o.writes m s) s r v with heq | ⟨heq, hkeep⟩
    · rw [heq]
      exact ⟨put_readReg hj', .inl rfl⟩
    · rw [heq, put_setPc]
      refine ⟨?_, .inr ⟨?_, readReg_put_same _ _ r v⟩⟩
      · rw [put_put_same, put_readReg hj']
      · rw [readReg_setPc, hkeep]

/-! ## Which inputs a register is -/

theorem regVal_eq (s : State) (r : Reg) : s.regVal r = (s.readReg r).val := by
  rcases r with _ | _ | _ <;> simp [State.regVal, State.readReg]

/-- The effective address reads the selected index register only (R110). -/
theorem ea_congr (h : ∀ k, m.index = some k → s'.index k = s.index k) : ea m s' = ea m s := by
  have hix : indexVal s' m.index = indexVal s m.index := by
    cases hm : m.index with
    | none => rfl
    | some k => simp only [indexVal, h k hm]
  simp only [ea, hix]

theorem holds_put (h : ∀ q t, c = .reg q t → q ≠ r) : c.holds (put s r v) = c.holds s := by
  cases c with
  | reg q t => simp only [JumpCond.holds, regVal_eq, readReg_put_of_ne (h q t rfl)]
  | _ => simp [JumpCond.holds]

/-- A register that is neither read nor the index of the operand is no input. -/
theorem sameInputs_put (hsrc : r ∉ o.sources) (hix : ∀ k, r = .index k → m.index ≠ some k) :
    SameInputs o m s (put s r v) where
  ea_eq := ea_congr fun k hk => congrArg Word.half (readReg_put_of_ne fun hr => hix k hr.symm hk)
  mem_eq := put_mem
  pc_eq := Write.run_pc (.reg r v) s
  readReg_eq q hq := readReg_put_of_ne fun hqr => hsrc (hqr ▸ hq)
  holds_eq c k ho := holds_put fun q t hc hqr => hsrc (by rw [ho, hc, ← hqr]; exact List.mem_singleton.2 rfl)

/-! ## The table of R48 -/

theorem readsReg_of_mem_sources (h : r ∈ i.op.sources) : readsReg r i = true := by
  have hall : i.op.sources.all (readsReg · i) = true := by cases i <;> rfl
  exact List.all_eq_true.1 hall r h

theorem writesReg_of_mem_dest (h : r ∈ i.op.dest) : writesReg r i = true := by
  have hall : i.op.dest.all (writesReg · i) = true := by cases i <;> rfl
  exact List.all_eq_true.1 hall r h

theorem readsReg_of_index {k : IndexReg} (h : (addrOf i).index = some k) : readsReg (.index k) i = true := by
  simp [readsReg, h]

/-! ## Two states that differ in a flag -/

/-- Writes done to two states that differ in one part, set by `set`, leave states that differ there at most. -/
theorem runWrites_set {β : Type} {set : State → β → State}
    (hrun : ∀ (w : Write) s b, ∃ b', w.run (set s b) = set (w.run s) b') (l : List Write) (s : State) (b : β) :
    ∃ b', runWrites l (set s b) = set (runWrites l s) b' := by
  induction l generalizing s b with
  | nil => exact ⟨b, rfl⟩
  | cons w l ih =>
    obtain ⟨b', hw⟩ := hrun w s b
    rw [runWrites_cons, hw]
    exact ih (w.run s) b'

/-- The same inputs, in states that differ in one part: the outcomes agree but in that part. -/
theorem result_agreeUpTo {β : Type} {set : State → β → State} {same : State → State → Prop} {b : β}
    (hrun : ∀ (w : Write) s b, ∃ b', w.run (set s b) = set (w.run s) b')
    (hsame : ∀ s b n, same (s.setPc n) ((set s b).setPc n)) (h : SameInputs o m s (set s b)) : agreeUpTo same (o.result m s) (o.result m (set s b)) := by
  obtain ⟨b', hb⟩ := runWrites_set hrun (o.writes m s) s b
  rw [Op.result, Op.result, h.stops_eq, Op.after, Op.after, h.writes_eq, h.nextPc_eq, hb]
  cases o.stops m s with
  | some e => exact rfl
  | none => exact hsame _ b' _

theorem Write.run_setOv (w : Write) (s : State) (b : Bool) : ∃ b', w.run (s.setOv b) = (w.run s).setOv b' := by
  cases w with
  | ov b' => exact ⟨b', rfl⟩
  | reg r v => exact ⟨b, by rcases r with (_ | _) | (_ | _ | _ | _ | _ | _) | _ <;> rfl⟩
  | _ => exact ⟨b, rfl⟩

theorem Write.run_setCi (w : Write) (s : State) (c : Indicator) : ∃ c', w.run (s.setCi c) = (w.run s).setCi c' := by
  cases w with
  | ci c' => exact ⟨c', rfl⟩
  | reg r v => exact ⟨c, by rcases r with (_ | _) | (_ | _ | _ | _ | _ | _) | _ <;> rfl⟩
  | _ => exact ⟨c, rfl⟩

/-- The conditions that read OV. -/
def JumpCond.readsOv : JumpCond → Bool
  | .ovSet | .ovClear => true
  | _ => false

/-- The conditions that read CI. -/
def JumpCond.readsCi : JumpCond → Bool
  | .ci _ => true
  | _ => false

theorem eq_jov_or_jnov_of_op {k : JumpKind} (h : i.op = .jump c k) (hc : c.readsOv = true) :
    ∃ m, i = .jov m ∨ i = .jnov m := by
  cases i <;> cases h <;> cases hc
  · exact ⟨_, .inl rfl⟩
  · exact ⟨_, .inr rfl⟩

theorem readsCi_of_op {k : JumpKind} (h : i.op = .jump c k) : Spec.readsCi i = c.readsCi := by
  cases i <;> cases h <;> rfl

/-- OV is an input of the jumps whose condition reads it only. -/
theorem sameInputs_setOv {b : Bool} (h : ∀ c k, o = .jump c k → c.readsOv = false) : SameInputs o m s (s.setOv b) where
  ea_eq := ea_congr fun k _ => s.setOv_index b k
  mem_eq := rfl
  pc_eq := rfl
  readReg_eq r _ := by rcases r with _ | _ | _ <;> simp [State.readReg]
  holds_eq c k ho := by
    cases c with
    | ovSet | ovClear => cases h _ _ ho
    | reg r t => rcases r with _ | _ | _ <;> simp [JumpCond.holds, State.regVal]
    | _ => rfl

/-- CI is an input of the jumps whose condition reads it only. -/
theorem sameInputs_setCi {ind : Indicator} (h : ∀ c k, o = .jump c k → c.readsCi = false) :
    SameInputs o m s (s.setCi ind) where
  ea_eq := ea_congr fun k _ => s.setCi_index ind k
  mem_eq := rfl
  pc_eq := rfl
  readReg_eq r _ := by rcases r with _ | _ | _ <;> simp [State.readReg]
  holds_eq c k ho := by
    cases c with
    | ci p => cases h _ _ ho
    | reg r t => rcases r with _ | _ | _ <;> simp [JumpCond.holds, State.regVal]
    | _ => rfl

end Sys2Proof.Machine

namespace Sys2Proof.Spec

open Sys2Proof.Machine

/-- Settles O52: a register that is no destination is kept, and one that is no source and no index is no input. -/
theorem registerAccessSummary : Obligations.RegisterAccessSummary := by
  intro r i s hj
  refine ⟨fun t hno h => ?_, fun hno v => ?_⟩
  · refine (exec_readReg h).resolve_right fun hdest => ?_
    rw [writesReg_of_mem_dest hdest] at hno
    cases hno
  · rw [exec_eq_result, exec_eq_result]
    refine result_agreeBut hj (sameInputs_put (fun hsrc => ?_) fun k hr hix => ?_)
    · rw [readsReg_of_mem_sources hsrc] at hno
      cases hno
    · rw [hr, readsReg_of_index hix] at hno
      cases hno

/-- Settles O53: a flag is an input of the jumps that test it only. -/
theorem flagsAreReadByTheirJumpsOnly : Obligations.FlagsAreReadByTheirJumpsOnly := by
  intro i s
  refine ⟨fun hno b => ?_, fun hno c => ?_⟩
  all_goals rw [exec_eq_result, exec_eq_result]
  · refine result_agreeUpTo (set := State.setOv) Write.run_setOv (fun _ _ _ => rfl) (sameInputs_setOv fun c k hop => ?_)
    refine Bool.eq_false_iff.2 fun hc => ?_
    obtain ⟨m, hi⟩ := eq_jov_or_jnov_of_op hop hc
    exact hi.elim (hno m).1 (hno m).2
  · refine result_agreeUpTo (set := State.setCi) Write.run_setCi (fun _ _ _ => rfl) (sameInputs_setCi fun c k hop => ?_)
    rwa [← readsCi_of_op hop]

end Sys2Proof.Spec

/-! PROOFS of the statements about operands, loads, stores, arithmetic, address transfer and compares (O16 to O20, O22, O23, O25,
O27 to O31): what each operation leaves in the register it writes, and the operation each family is. -/

namespace Sys2Proof.Spec

open Sys2Proof.Machine

variable {m : Addr} {f : FieldSpec} {s : State} {a : Nat}

/-! ## Signs and the effective address -/

theorem isSignOf_ofInt (t : Int) (z : Sign) : isSignOf t z (Sign.ofInt t z) := by
  refine ⟨fun h => Sign.ofInt_of_neg h z, fun h => Sign.ofInt_of_pos h z, ?_⟩
  rintro rfl
  exact Sign.ofInt_zero z

theorem isSignOf_flip {t : Int} {z sg : Sign} (h : isSignOf t z sg) : isSignOf (-t) z.flip sg.flip := by
  obtain ⟨hneg, hpos, hzero⟩ := h
  refine ⟨fun ht => ?_, fun ht => ?_, fun ht => ?_⟩
  · rw [hpos (by omega)]
    rfl
  · rw [hneg (by omega)]
    rfl
  · rw [hzero (by omega)]

theorem ea_isSignOf (m : Addr) (s : State) : isSignOf (ea m s).val m.sign (ea m s).sign := isSignOf_ofInt _ _

/-- Settles O16: the sum of the two values, within its bounds, with the sign that R111 gives a zero. -/
theorem effectiveAddressRule : Obligations.EffectiveAddressRule := by
  intro m s
  obtain ⟨hlow, hhigh⟩ := ea_bounds m s
  refine ⟨fun h => ?_, fun i h => ?_, hlow, hhigh, rfl, ea_isSignOf m s⟩
  · rw [ea_val, h, signed_eq_apply]
    exact add_zero _
  · rw [ea_val, h, signed_eq_apply, signed_eq_apply]
    rfl

/-! ## An instruction that writes one register -/

/-- Register A or X gets `v`, PC goes on, and nothing else changes. -/
def SetsFull (s : State) (r : FullReg) (v : Word) (x : Result) : Prop :=
  ∃ t, x = .next t ∧ t.full r = v ∧ t = { s.setFull r (t.full r) with pc := s.pc + 1 }

/-- Index register Ii gets `h`, PC goes on, and nothing else changes. -/
def SetsIndex (s : State) (i : IndexReg) (h : Half) (x : Result) : Prop :=
  ∃ t, x = .next t ∧ t.index i = h ∧ t = { s.setIndex i (t.index i) with pc := s.pc + 1 }

theorem finish_setFull (s : State) (r : FullReg) (v : Word) : SetsFull s r v (finish (s.setFull r v)) := by
  refine ⟨_, rfl, by simp, ?_⟩
  rw [advance_eq, State.setFull_pc]
  cases r <;> rfl

theorem finish_setFull_both (s : State) (a x : Word) :
    ∃ t, finish ((s.setFull .a a).setFull .x x) = .next t ∧ t.a = a ∧ t.x = x ∧
      t = { s with a := t.a, x := t.x, pc := s.pc + 1 } :=
  ⟨_, finish_eq _, rfl, rfl, rfl⟩

theorem finish_setIndex (s : State) (i : IndexReg) (h : Half) : SetsIndex s i h (finish (s.setIndex i h)) := by
  refine ⟨_, rfl, by simp, ?_⟩
  rw [advance_eq, State.setIndex_pc]
  cases i <;> rfl

/-! ## Loads -/

/-- The code of an instruction whose F byte is a field, its opcode given as a number (R105). -/
theorem codedAs_of_fieldWord {i : Instr} {n : Nat} (hn : n < 64) (h : encode i = assemble m f.toByte (.ofNat 6 n)) :
    codedAs i n (8 * f.l.val + f.r.val) := by
  have hc : (BitVec.ofNat 6 n).toNat = n := by rw [BitVec.toNat_ofNat]; omega
  exact hc ▸ codedAs_of_encode_field h

theorem exec_loadOf (r : FullReg) : exec (loadOf r m f) s = loadFull id r m f s := by cases r <;> rfl

theorem exec_loadNegOf (r : FullReg) : exec (loadNegOf r m f) s = loadFull negate r m f s := by cases r <;> rfl

theorem exec_loadIdx (i : IndexReg) : exec (loadIdx i m f) s = loadIndex id i m f s := by cases i <;> rfl

theorem exec_loadNegIdx (i : IndexReg) : exec (loadNegIdx i m f) s = loadIndex negate i m f s := by cases i <;> rfl

theorem loadFull_sets (g : Word → Word) (r : FullReg) (hf : legalField f) (ha : addresses m s a) :
    SetsFull s r (fieldView (g (s.mem.read a)) f) (loadFull g r m f s) := by
  rw [loadFull, withCell_of_addresses hf ha]
  exact finish_setFull s r _

theorem loadFull_outside {g : Word → Word} {r : FullReg} (hf : legalField f) (h : outside m s) :
    loadFull g r m f s = .fault (.addressOutOfRange (ea m s).val) := withCell_outside hf h

/-- The sign of the view of a negated cell: the other sign where the field takes the sign, else + (R37, R210). -/
theorem fieldView_negate_sign (w : Word) (f : FieldSpec) :
    (f.l.val = 0 → (fieldView (negate w) f).sign ≠ w.sign) ∧ (0 < f.l.val → (fieldView (negate w) f).sign = .plus) := by
  rw [fieldView_sign_eq_viewSign, viewSign]
  refine ⟨fun h => ?_, fun h => if_neg h.ne'⟩
  rw [if_pos h]
  exact w.sign.flip_ne

/-- Settles O17: a load sets the register to the view of the cell, or of the negated cell. -/
theorem loadFullRegister : Obligations.LoadFullRegister := by
  intro r m f s hf
  refine ⟨?_, ?_, fun a ha => ⟨?_, ?_⟩, fun hout => ?_⟩
  · cases r <;> exact codedAs_of_fieldWord (m := m) (by decide) rfl
  · cases r <;> exact codedAs_of_fieldWord (m := m) (by decide) rfl
  · rw [exec_loadOf]
    obtain ⟨t, hexec, hreg, ht⟩ := loadFull_sets id r hf ha
    refine ⟨t, hexec, ?_, ?_, ht⟩ <;> rw [hreg]
    · exact fieldView_sign_eq_viewSign _ f
    · exact fieldView_mag_eq_viewMag _ f
  · rw [exec_loadNegOf]
    obtain ⟨t, hexec, hreg, ht⟩ := loadFull_sets negate r hf ha
    obtain ⟨hzero, hpos⟩ := fieldView_negate_sign (s.mem.read a) f
    refine ⟨t, hexec, ?_, ?_, ?_, ht⟩ <;> rw [hreg]
    · exact hzero
    · exact hpos
    · exact fieldView_mag_eq_viewMag _ f
  · rw [exec_loadOf, exec_loadNegOf]
    exact ⟨loadFull_outside hf hout, loadFull_outside hf hout⟩

/-- A value that fits goes into the index register with its sign and magnitude (R201). -/
theorem withHalf_sets {v : Word} (i : IndexReg) (h : v.mag < 4096) :
    ∃ t, (withHalf v fun k => finish (s.setIndex i k)) = .next t ∧ (t.index i).sign = v.sign ∧ (t.index i).mag = v.mag ∧
      t = { s.setIndex i (t.index i) with pc := s.pc + 1 } := by
  obtain ⟨t, hexec, hreg, ht⟩ := finish_setIndex s i v.half
  refine ⟨t, ?_, ?_, ?_, ht⟩
  · rw [withHalf_ok h, hexec]
  · rw [hreg, Word.half_sign]
  · rw [hreg, Word.half_mag, Nat.mod_eq_of_lt h]

theorem loadIndex_sets (g : Word → Word) (i : IndexReg) (hf : legalField f) (ha : addresses m s a)
    (hfits : viewMag (g (s.mem.read a)) f < 4096) :
    ∃ t, loadIndex g i m f s = .next t ∧ (t.index i).sign = viewSign (g (s.mem.read a)) f ∧
      (t.index i).mag = viewMag (g (s.mem.read a)) f ∧ t = { s.setIndex i (t.index i) with pc := s.pc + 1 } := by
  rw [← fieldView_mag_eq_viewMag] at hfits ⊢
  rw [loadIndex, withCell_of_addresses hf ha, ← fieldView_sign_eq_viewSign]
  exact withHalf_sets i hfits

theorem loadIndex_faults (g : Word → Word) (i : IndexReg) (hf : legalField f) (ha : addresses m s a)
    (hbig : 4096 ≤ viewMag (g (s.mem.read a)) f) :
    loadIndex g i m f s = .fault (.indexValueOutOfRange (viewVal (g (s.mem.read a)) f)) := by
  rw [← fieldView_mag_eq_viewMag] at hbig
  rw [loadIndex, withCell_of_addresses hf ha, withHalf_bad hbig, fieldView_val_eq_viewVal]

/-- Settles O18: the view fits the register and is loaded, or does not and is the info of the fault. -/
theorem loadIndexRegister : Obligations.LoadIndexRegister := by
  intro i m f s hf
  refine ⟨fun a ha => ⟨fun h => ⟨?_, ?_⟩, fun h => ⟨?_, ?_⟩⟩, fun hout => ⟨?_, ?_⟩⟩
  · rw [exec_loadIdx]
    exact loadIndex_sets id i hf ha h
  · rw [exec_loadNegIdx]
    exact loadIndex_sets negate i hf ha h
  · rw [exec_loadIdx]
    exact loadIndex_faults id i hf ha h
  · rw [exec_loadNegIdx]
    exact loadIndex_faults negate i hf ha h
  · rw [exec_loadIdx]
    exact withCell_outside hf hout
  · rw [exec_loadNegIdx]
    exact withCell_outside hf hout

/-! ## Stores -/

theorem exec_storeOf (r : FullReg) : exec (storeOf r m f) s = store (s.full r) m f s := by cases r <;> rfl

theorem exec_storeIdx (i : IndexReg) : exec (storeIdx i m f) s = store (widened (s.index i)) m f s := by cases i <;> rfl

/-- Settles O19: STA and STX are the store whose source is their register. -/
theorem storeFullRegister : Obligations.StoreFullRegister := by
  intro r m f s hwf hf
  refine ⟨?_, fun a ha => ?_, fun hout => ?_⟩
  · cases r <;> exact codedAs_of_fieldWord (m := m) (by decide) rfl
  · rw [exec_storeOf]
    exact store_replaces_field hwf hf ha
  · rw [exec_storeOf]
    exact withCell_outside hf hout

/-- Settles O20: STi is the store whose source is the widened Ii. -/
theorem storeIndexRegister : Obligations.StoreIndexRegister := by
  intro i m f s hwf hf
  refine ⟨?_, fun a ha => ?_, fun hout => ?_⟩
  · cases i <;> exact codedAs_of_fieldWord (m := m) (by decide) rfl
  · rw [exec_storeIdx]
    exact store_replaces_field hwf hf ha
  · rw [exec_storeIdx]
    exact withCell_outside hf hout

/-- The field (0:2) of a word is its sign and bytes 1 and 2 (R229). -/
theorem applyField_stj (w : Word) (h : Half) : applyField w .stj (pad h) = ⟨h.sign, h.h1, h.h2, w.b3, w.b4, w.b5⟩ := rfl

theorem legalField_stj : legalField .stj := legalField_iff.2 rfl

/-- Settles O22: another F byte is rejected by O11's rule, and STJ is the store of J into the field (0:2). -/
theorem storeJumpRegister : Obligations.StoreJumpRegister := by
  refine ⟨fun w hc hix hf => ?_, fun m s hwf hj => ⟨⟨rfl, rfl⟩, fun a ha => ?_, fun hout => ?_⟩⟩
  · refine (decode_accepts (by omega)).2 fun hlegal => hf (BitVec.eq_of_toNat_eq ?_)
    rwa [hc] at hlegal
  · refine ⟨_, store_of_addresses legalField_stj ha, ?_, fun b hb => Memory.read_write_ne hwf _ hb, rfl⟩
    rw [Memory.read_write_same hwf, applyField_stj, hj]
  · rw [exec_stj]
    exact withCell_outside legalField_stj hout

/-! ## Sums -/

/-- The law of a signed add (R264). -/
theorem signedAdd_sumRule (rs : Sign) (rv d : Int) (w : Nat) (ov : Bool) :
    sumRule (rv + d) w rs (signedAdd rs rv d w).sign (signedAdd rs rv d w).mag ov
      (ov || (signedAdd rs rv d w).overflow) := by
  by_cases h : (rv + d).natAbs < 2 ^ w
  · rw [signedAdd_small h]
    exact ⟨isSignOf_ofInt _ _, fun _ => ⟨rfl, Bool.or_false ov⟩, fun hbig => absurd h (Nat.not_lt.2 hbig)⟩
  · rw [signedAdd_large (Nat.not_lt.1 h)]
    exact ⟨isSignOf_ofInt _ _, fun hsmall => absurd hsmall h, fun _ => ⟨rfl, Bool.or_true ov⟩⟩

/-- A signed add to A or X leaves the sum there and OV after it, and writes nothing else but PC (R260, R300). -/
theorem addFull_gives_sum (r : FullReg) (d : Int) (s : State) :
    ∃ t, addFull r d s = .next t ∧
      sumRule (signed (s.full r).sign (s.full r).mag + d) 30 (s.full r).sign (t.full r).sign (t.full r).mag s.ov t.ov ∧
      t = { s.setFull r (t.full r) with ov := t.ov, pc := s.pc + 1 } := by
  refine ⟨_, finish_eq _, ?_, ?_⟩
  · have hsum := signedAdd_sumRule (s.full r).sign (s.full r).val d 30 s.ov
    rw [← Word.mag_ofMag_of_lt (signedAdd (s.full r).sign (s.full r).val d 30).sign
      (signedAdd_mag_lt (s.full r).sign (s.full r).val d 30)] at hsum
    rw [signed_word]
    cases r <;> exact hsum
  · cases r <;> rfl

/-- A signed add to an index register (R300). -/
theorem addIndex_gives_sum (i : IndexReg) (d : Int) (s : State) :
    ∃ t, addIndex i d s = .next t ∧
      sumRule (signed (s.index i).sign (s.index i).mag + d) 12 (s.index i).sign (t.index i).sign (t.index i).mag s.ov t.ov ∧
      t = { s.setIndex i (t.index i) with ov := t.ov, pc := s.pc + 1 } := by
  refine ⟨_, finish_eq _, ?_, ?_⟩
  · have hsum := signedAdd_sumRule (s.index i).sign (s.index i).val d 12 s.ov
    rw [← Half.mag_ofMag_of_lt (signedAdd (s.index i).sign (s.index i).val d 12).sign
      (signedAdd_mag_lt (s.index i).sign (s.index i).val d 12)] at hsum
    rw [signed_half]
    cases i <;> exact hsum
  · cases i <;> rfl

/-- Settles O23: SUB adds the negated view. -/
theorem addAndSubtract : Obligations.AddAndSubtract := by
  intro m f s hf
  refine ⟨fun a ha => ⟨?_, ?_⟩, fun hout => ⟨?_, ?_⟩⟩
  · rw [exec_add, withCell_of_addresses hf ha, fieldView_val_eq_viewVal]
    exact addFull_gives_sum .a _ s
  · rw [exec_sub, withCell_of_addresses hf ha, negate_val, fieldView_val_eq_viewVal]
    exact addFull_gives_sum .a _ s
  · rw [exec_add]
    exact withCell_outside hf hout
  · rw [exec_sub]
    exact withCell_outside hf hout

/-- Settles O27: INC and DEC are the signed add of the effective address or its negative. -/
theorem increaseAndDecreaseFull : Obligations.IncreaseAndDecreaseFull := by
  intro r m s
  rw [exec_incOf, exec_decOf]
  exact ⟨addFull_gives_sum r _ s, addFull_gives_sum r _ s⟩

/-- Settles O28: as O27, in 12 bits. -/
theorem increaseAndDecreaseIndex : Obligations.IncreaseAndDecreaseIndex := by
  intro i m s
  rw [exec_incIdx, exec_decIdx]
  exact ⟨addIndex_gives_sum i _ s, addIndex_gives_sum i _ s⟩

/-! ## Quotients -/

/-- A division whose quotient does not fit sets OV and leaves A and X (R263). -/
theorem divide_sets_ov {v : Word} (h : v.mag = 0 ∨ 2 ^ 30 ≤ (s.a.mag * 2 ^ 30 + s.x.mag) / v.mag) :
    divide v s = .next { s with ov := true, pc := s.pc + 1 } := by
  have hfail : v.mag = 0 ∨ v.mag ≤ s.a.mag := by
    refine v.mag.eq_zero_or_pos.imp_right fun hpos => Nat.not_lt.1 fun hlt => ?_
    exact Nat.not_lt.2 (h.resolve_left hpos.ne') ((quotient_lt_iff s.x.mag_lt hpos).2 hlt)
  rw [divide_fail hfail, finish_eq]
  rfl

/-- A dividend is put together again from its quotient and remainder, each held in a word. -/
theorem mag_ofMag_div_mod (sg sg' : Sign) {n d : Nat} (hd : d < 2 ^ 30) (hpos : 0 < d) (h : n / d < 2 ^ 30) :
    n = (Word.ofMag sg (n / d)).mag * d + (Word.ofMag sg' (n % d)).mag ∧ (Word.ofMag sg' (n % d)).mag < d := by
  have hrem : n % d < d := Nat.mod_lt n hpos
  rw [Word.mag_ofMag_of_lt sg h, Word.mag_ofMag_of_lt sg' (hrem.trans hd)]
  exact ⟨(Nat.div_add_mod' n d).symm, hrem⟩

/-- A division whose quotient fits leaves it in A and the remainder in X (R263). -/
theorem divide_gives_quotient {v : Word} (hpos : 0 < v.mag) (h : (s.a.mag * 2 ^ 30 + s.x.mag) / v.mag < 2 ^ 30) :
    ∃ t, divide v s = .next t ∧ s.a.mag * 2 ^ 30 + s.x.mag = t.a.mag * v.mag + t.x.mag ∧ t.x.mag < v.mag ∧
      t.x.sign = s.a.sign ∧ (t.a.sign = .minus ↔ s.a.sign ≠ v.sign) ∧
      t = { s with a := t.a, x := t.x, pc := s.pc + 1 } := by
  obtain ⟨hsum, hrem⟩ := mag_ofMag_div_mod (s.a.sign.xor v.sign) s.a.sign v.mag_lt hpos h
  rw [divide_ok ((quotient_lt_iff s.x.mag_lt hpos).1 h)]
  obtain ⟨t, hexec, ha, hx, ht⟩ := finish_setFull_both s _ _
  refine ⟨t, hexec, ?_, ?_, ?_, ?_, ht⟩
  · rwa [ha, hx]
  · rwa [hx]
  · rw [hx, Word.sign_ofMag]
  · rw [ha, Word.sign_ofMag]
    exact s.a.sign.xor_eq_minus_iff v.sign

/-- Settles O25. -/
theorem divideGivesQuotientAndRemainder : Obligations.DivideGivesQuotientAndRemainder := by
  intro m f s hf
  refine ⟨fun a ha => ?_, fun hout => ?_⟩
  · rw [exec_div, withCell_of_addresses hf ha, ← fieldView_mag_eq_viewMag, ← fieldView_sign_eq_viewSign]
    exact ⟨divide_sets_ov, fun h0 => divide_gives_quotient (Nat.pos_of_ne_zero h0)⟩
  · rw [exec_div]
    exact withCell_outside hf hout

/-! ## Address transfer -/

theorem exec_entOf (r : FullReg) : exec (entOf r m) s = enterFull r (ea m s).word s := by cases r <;> rfl

theorem exec_ennOf (r : FullReg) : exec (ennOf r m) s = enterFull r (negate (ea m s).word) s := by cases r <;> rfl

theorem exec_entIdx (i : IndexReg) : exec (entIdx i m) s = enterIndex i (ea m s).word s := by cases i <;> rfl

theorem exec_ennIdx (i : IndexReg) : exec (ennIdx i m) s = enterIndex i (negate (ea m s).word) s := by cases i <;> rfl

/-- Settles O29: the register is set to the word of the effective address, or to its negative. -/
theorem enterFullRegister : Obligations.EnterFullRegister := by
  intro r m s
  rw [exec_entOf, exec_ennOf]
  obtain ⟨t, hexec, hreg, ht⟩ := finish_setFull s r (ea m s).word
  obtain ⟨t', hexec', hreg', ht'⟩ := finish_setFull s r (negate (ea m s).word)
  refine ⟨⟨t, hexec, ?_, ?_, ht⟩, t', hexec', ?_, ?_, ht'⟩
  · rw [hreg]
    exact ea_isSignOf m s
  · rw [hreg, ea_word_mag]
  · rw [hreg']
    exact isSignOf_flip (ea_isSignOf m s)
  · rw [hreg', negate_mag, ea_word_mag]

/-- Settles O30: the word of the effective address fits the register, or is the info of the fault. -/
theorem enterIndexRegister : Obligations.EnterIndexRegister := by
  intro i m s
  rw [exec_entIdx, exec_ennIdx, ← ea_word_mag]
  refine ⟨fun h => ?_, fun h => ⟨?_, ?_⟩⟩
  · obtain ⟨t, hexec, hsign, hmag, ht⟩ := withHalf_sets (s := s) (v := (ea m s).word) i h
    obtain ⟨t', hexec', hsign', hmag', ht'⟩ := withHalf_sets (s := s) (v := negate (ea m s).word) i h
    refine ⟨⟨t, hexec, ?_, hmag, ht⟩, t', hexec', ?_, hmag', ht'⟩
    · rw [hsign]
      exact ea_isSignOf m s
    · rw [hsign']
      exact isSignOf_flip (ea_isSignOf m s)
  · rw [enterIndex, withHalf_bad h, ea_word_val]
  · rw [enterIndex, withHalf_bad (v := negate (ea m s).word) h, negate_val, ea_word_val]

/-! ## Compares -/

theorem exec_compareOf (r : FullReg) : exec (compareOf r m f) s = compareField (s.full r) m f s := by cases r <;> rfl

theorem exec_compareIdx (i : IndexReg) : exec (compareIdx i m f) s = compareField (widened (s.index i)) m f s := by
  cases i <;> rfl

/-- A compare sets CI from the values of the two views, and writes nothing else but PC (R340). -/
theorem compareField_sets_ci (v : Word) (hf : legalField f) (ha : addresses m s a) :
    compareField v m f s = .next { s with
      ci := if viewVal v f < viewVal (s.mem.read a) f then .less
        else if viewVal v f = viewVal (s.mem.read a) f then .equal else .greater
      pc := s.pc + 1 } := by
  rw [compareField, withCell_of_addresses hf ha, fieldView_val_eq_viewVal, fieldView_val_eq_viewVal]
  exact finish_eq _

/-- Settles O31: the eight compares are one operation, of the register's word. -/
theorem compareSetsTheIndicator : Obligations.CompareSetsTheIndicator := by
  intro m f s hf
  refine ⟨fun r => ⟨?_, fun a ha => ?_, fun hout => ?_⟩, fun i => ⟨?_, fun a ha => ?_, fun hout => ?_⟩⟩
  · cases r <;> exact codedAs_of_fieldWord (m := m) (by decide) rfl
  · rw [exec_compareOf]
    exact compareField_sets_ci _ hf ha
  · rw [exec_compareOf]
    exact withCell_outside hf hout
  · cases i <;> exact codedAs_of_fieldWord (m := m) (by decide) rfl
  · rw [exec_compareIdx]
    exact compareField_sets_ci _ hf ha
  · rw [exec_compareIdx]
    exact withCell_outside hf hout

end Sys2Proof.Spec

/-! PROOFS of the statements about jumps (O32 to O35), shifts (O36, O37), MOVE (O38, O39) and stored instructions (O54). -/

namespace Sys2Proof.Spec

open Sys2Proof.Machine

variable {m : Addr} {s : State} {b : Bool}

/-! ## Jumps -/

theorem outside_iff : outside m s ↔ ¬ (0 ≤ (ea m s).val ∧ (ea m s).val < Config.memSize) := by
  have hsize : (Config.memSize : Int) = 4000 := rfl
  unfold outside
  omega

theorem jumpIf_outside {k : State → State} (hb : b = true) (h : outside m s) :
    jumpIf b k m s = .fault (.addressOutOfRange (ea m s).val) := jumpIf_bad hb (outside_iff.1 h)

theorem jumpIf_notTaken {k : State → State} (hb : b = false) : notTaken s (jumpIf b k m s) := by
  rw [jumpIf_not hb]
  exact finish_eq s

/-- A taken jump to an address of memory does its writes and goes there (R360). -/
theorem jumpIf_inside {k : State → State} (hb : b = true) (h : ¬ outside m s) :
    jumpIf b k m s = .next ((k s).setPc (target m s)) ∧ (((k s).setPc (target m s)).pc.toNat : Int) = (ea m s).val := by
  have hsize : (Config.memSize : Int) = 4000 := rfl
  obtain ⟨h0, h1⟩ := not_not.1 fun hout => h (outside_iff.2 hout)
  refine ⟨jumpIf_taken hb h0 h1, ?_⟩
  rw [toNat_setPc (by unfold target; omega)]
  exact Int.toNat_of_nonneg h0

/-- J after the link of a jump fetched from memory is +(PC + 1) (R360). -/
theorem link_j_sign_mag (hpc : s.pc.toNat < 4000) : (link s).j.sign = .plus ∧ (link s).j.mag = s.pc.toNat + 1 := by
  rw [link_j, Half.sign_ofMag, Half.mag_ofMag_of_lt]
  · exact ⟨rfl, rfl⟩
  · omega

theorem jumpIf_link_taken (hpc : s.pc.toNat < 4000) (hb : b = true) (h : ¬ outside m s) :
    taken m s (jumpIf b link m s) := by
  obtain ⟨hexec, htarget⟩ := jumpIf_inside (k := link) hb h
  obtain ⟨hsign, hmag⟩ := link_j_sign_mag hpc
  exact ⟨_, hexec, htarget, hsign, hmag, rfl⟩

/-- A jump that links jumps when its condition holds (R360). -/
theorem jumpIf_link_jumpsWhen {c : Prop} (hpc : s.pc.toNat < 4000) (hc : b = true ↔ c) :
    jumpsWhen c m s (jumpIf b link m s) :=
  ⟨fun hno => jumpIf_notTaken (Bool.eq_false_iff.2 fun hb => hno (hc.1 hb)),
    fun hyes hout => jumpIf_outside (hc.2 hyes) hout, fun hyes hin => jumpIf_link_taken hpc (hc.2 hyes) hin⟩

/-- Settles O32: JMP is the jump that links and JSJ the one that writes nothing, both always taken. -/
theorem unconditionalJumps : Obligations.UnconditionalJumps := by
  intro m s hpc
  refine ⟨⟨rfl, rfl⟩, ⟨rfl, rfl⟩, fun hin => ⟨jumpIf_link_taken hpc rfl hin, ?_⟩, fun hout => ⟨?_, ?_⟩⟩
  · obtain ⟨hexec, htarget⟩ := jumpIf_inside (b := true) (k := id) rfl hin
    exact ⟨_, hexec, htarget, rfl⟩
  · exact jumpIf_outside rfl hout
  · exact jumpIf_outside rfl hout

/-- Settles O33: JOV jumps on OV and clears it after the link; JNOV is a jump that links. -/
theorem overflowJumps : Obligations.OverflowJumps := by
  intro m s hpc
  rw [exec_jov, exec_jnov]
  refine ⟨fun hov => jumpIf_notTaken hov, fun hov hin => ?_, fun hov hout => jumpIf_outside hov hout, ?_⟩
  · obtain ⟨hexec, htarget⟩ := jumpIf_inside (k := fun t => (link t).setOv false) hov hin
    obtain ⟨hsign, hmag⟩ := link_j_sign_mag hpc
    exact ⟨_, hexec, htarget, hsign, hmag, rfl⟩
  · exact jumpIf_link_jumpsWhen hpc (by simp)

/-- Settles O34: each is the jump that links on its own states of CI. -/
theorem comparisonJumps : Obligations.ComparisonJumps := by
  intro m s hpc
  refine ⟨?_, ?_, ?_, ?_, ?_, ?_⟩ <;> exact jumpIf_link_jumpsWhen hpc (by simp)

theorem exec_jumpOf (r : FullReg) (c : SignTest) : exec (jumpOf r c m) s = jumpOn c (s.full r).val m s := by
  cases r <;> cases c <;> rfl

theorem exec_jumpIdx (i : IndexReg) (c : SignTest) : exec (jumpIdx i c m) s = jumpOn c (s.index i).val m s := by
  cases i <;> cases c <;> rfl

theorem holds_iff_condition (c : SignTest) (v : Int) : c.holds v = true ↔ condition c v := by
  cases c <;> exact decide_eq_true_iff

/-- Settles O35: the condition is that of R362 on the register's value. -/
theorem registerJumps : Obligations.RegisterJumps := by
  intro c m s hpc
  refine ⟨fun r => ?_, fun i => ?_⟩
  · rw [exec_jumpOf, signed_word]
    exact jumpIf_link_jumpsWhen hpc (holds_iff_condition c _)
  · rw [exec_jumpIdx, signed_half]
    exact jumpIf_link_jumpsWhen hpc (holds_iff_condition c _)

/-! ## The bytes that a shift leaves -/

section
variable {l : List Byte} {n k : Nat}

theorem getD_shiftLeft (l : List Byte) (n k : Nat) : (shiftLeft l n).getD k 0 = l.getD (k + n) 0 := by
  rw [shiftLeft, List.getD_eq_getElem?_getD, List.getD_eq_getElem?_getD]
  by_cases h : k < l.length - n
  · rw [List.getElem?_append_left (by rwa [List.length_drop]), List.getElem?_drop, Nat.add_comm]
  · rw [List.getElem?_append_right (by rw [List.length_drop]; omega), List.getElem?_eq_none (by omega : l.length ≤ k + n)]
    rw [List.getElem?_replicate]
    split <;> rfl

theorem getD_shiftRight (hk : k < l.length) :
    (shiftRight l n).getD k 0 = if n ≤ k then l.getD (k - n) 0 else 0 := by
  rw [shiftRight, List.getD_eq_getElem?_getD, List.getD_eq_getElem?_getD]
  split
  · rw [List.getElem?_append_right (by rwa [List.length_replicate]), List.length_replicate,
      List.getElem?_take_of_lt (by omega)]
  · rw [List.getElem?_append_left (by rw [List.length_replicate]; omega), List.getElem?_replicate_of_lt (by omega)]
    rfl

theorem getD_rotateLeft (hn : n ≤ l.length) (hk : k < l.length) :
    (rotateLeft l n).getD k 0 = l.getD ((k + n) % l.length) 0 := by
  rw [rotateLeft, List.getD_eq_getElem?_getD, List.getD_eq_getElem?_getD]
  by_cases h : k + n < l.length
  · rw [List.getElem?_append_left (by rw [List.length_drop]; omega), List.getElem?_drop, Nat.mod_eq_of_lt h, Nat.add_comm]
  · have hmod : (k + n) % l.length = k + n - l.length := by
      rw [Nat.mod_eq_sub_mod (by omega), Nat.mod_eq_of_lt (by omega)]
    rw [List.getElem?_append_right (by rw [List.length_drop]; omega), List.getElem?_take_of_lt (by rw [List.length_drop]; omega),
      List.length_drop, hmod]
    congr 2
    omega

theorem getD_rotateRight (hn : n ≤ l.length) (hk : k < l.length) :
    (rotateRight l n).getD k 0 = l.getD ((k + l.length - n) % l.length) 0 := by
  rw [show rotateRight l n = rotateLeft l (l.length - n) from rfl, getD_rotateLeft (by omega) hk, Nat.add_sub_assoc hn]

end

/-- Byte k of the word of a list of bytes is its k-th, counted from 1. -/
theorem byte_ofBytes (sg : Sign) (l : List Byte) {k : Nat} (hk : k < 5) : (Word.ofBytes sg l).byte (k + 1) = l.getD k 0 := by
  interval_cases k <;> rfl

theorem getD_bytes (w : Word) (k : Nat) : w.bytes.getD k 0 = w.byte (k + 1) := by
  match k with
  | 0 | 1 | 2 | 3 | 4 => rfl
  | _ + 5 => rfl

theorem byte_past_five (w : Word) {k : Nat} (hk : 5 < k) : w.byte k = 0 := by
  match k, hk with
  | _ + 6, _ => rfl

theorem axByte_past_ten (s : State) {k : Nat} (hk : 10 < k) : axByte s k = 0 := by
  rw [axByte, if_neg (by omega), byte_past_five _ (by omega)]

/-- The ten bytes of A and X. -/
theorem getD_axBytes (s : State) (k : Nat) : (s.a.bytes ++ s.x.bytes).getD k 0 = axByte s (k + 1) := by
  unfold axByte
  split
  · rw [List.getD_append _ _ _ _ (show k < 5 by omega), getD_bytes]
  · rw [List.getD_append_right _ _ _ _ (show 5 ≤ k by omega), getD_bytes]
    congr 1
    show k - 5 + 1 = k + 1 - 5
    omega

theorem axByte_ofBytes {t : State} {sg sg' : Sign} {l : List Byte} {k : Nat} (hk : k < 10)
    (ha : t.a = Word.ofBytes sg (l.take 5)) (hx : t.x = Word.ofBytes sg' (l.drop 5)) : axByte t (k + 1) = l.getD k 0 := by
  unfold axByte
  split
  · rw [ha, byte_ofBytes _ _ (by omega), List.getD_eq_getElem?_getD, List.getD_eq_getElem?_getD,
      List.getElem?_take_of_lt (by omega)]
  · rw [hx, show k + 1 - 5 = k - 5 + 1 by omega, byte_ofBytes _ _ (by omega), List.getD_eq_getElem?_getD,
      List.getD_eq_getElem?_getD, List.getElem?_drop]
    congr 2
    omega

/-! ## Shifts -/

/-- A shift of A by a count that is not negative leaves the shifted bytes in A, and writes nothing else but PC (R440). -/
theorem shiftA_gives (op : List Byte → Nat → List Byte) {e : Nat} (h : (ea m s).val = e) :
    ∃ t, shiftA op m s = .next t ∧ t.a = Word.ofBytes s.a.sign (op s.a.bytes (e % 5)) ∧
      t = { s with a := t.a, pc := s.pc + 1 } := by
  rw [shiftA, withShiftCount_ok (by omega), h, Int.toNat_natCast]
  exact ⟨_, finish_eq _, rfl, rfl⟩

/-- A shift of A:X by a count that is not negative (R440). -/
theorem shiftAX_gives (op : List Byte → Nat → List Byte) {e : Nat} (h : (ea m s).val = e) :
    ∃ t, shiftAX op m s = .next t ∧ t.a.sign = s.a.sign ∧ t.x.sign = s.x.sign ∧
      (∀ k < 10, axByte t (k + 1) = (op (s.a.bytes ++ s.x.bytes) (e % 10)).getD k 0) ∧
      t = { s with a := t.a, x := t.x, pc := s.pc + 1 } := by
  rw [shiftAX, withShiftCount_ok (by omega), h, Int.toNat_natCast]
  obtain ⟨t, hexec, ha, hx, ht⟩ := finish_setFull_both s _ _
  exact ⟨t, hexec, by rw [ha]; rfl, by rw [hx]; rfl, fun k hk => axByte_ofBytes hk ha hx, ht⟩

/-- Settles O36, byte k at place k - 1 of the list. -/
theorem shiftsOfA : Obligations.ShiftsOfA := by
  intro m s
  rw [exec_sla, exec_sra]
  refine ⟨fun e he => ⟨?_, ?_⟩, fun hneg => ⟨withShiftCount_bad hneg 5 _, withShiftCount_bad hneg 5 _⟩⟩
  · obtain ⟨t, hexec, ha, ht⟩ := shiftA_gives shiftLeft he
    refine ⟨t, hexec, by rw [ha]; rfl, fun k h1 h5 => ?_, ht⟩
    obtain ⟨k, rfl⟩ := Nat.exists_eq_add_of_le' h1
    rw [ha, byte_ofBytes _ _ (by omega), getD_shiftLeft, getD_bytes, Nat.add_right_comm]
    split
    · rfl
    · exact byte_past_five _ (by omega)
  · obtain ⟨t, hexec, ha, ht⟩ := shiftA_gives shiftRight he
    refine ⟨t, hexec, by rw [ha]; rfl, fun k h1 h5 => ?_, ht⟩
    obtain ⟨k, rfl⟩ := Nat.exists_eq_add_of_le' h1
    have hlen : s.a.bytes.length = 5 := rfl
    rw [ha, byte_ofBytes _ _ (by omega), getD_shiftRight (by omega), getD_bytes]
    simp only [Nat.lt_succ_iff]
    split
    · rw [Nat.sub_add_comm (by assumption)]
    · rfl

/-- Settles O37, byte k at place k - 1 of the list of ten. -/
theorem shiftsOfAX : Obligations.ShiftsOfAX := by
  intro m s
  have hlen : (s.a.bytes ++ s.x.bytes).length = 10 := rfl
  rw [exec_slax, exec_srax, exec_slc, exec_src]
  refine ⟨fun e he => ⟨?_, ?_, ?_, ?_⟩, fun hneg => ?_⟩
  · obtain ⟨t, hexec, ha, hx, hbytes, ht⟩ := shiftAX_gives shiftLeft he
    refine ⟨t, hexec, ha, hx, fun k h1 h10 => ?_, ht⟩
    obtain ⟨k, rfl⟩ := Nat.exists_eq_add_of_le' h1
    rw [hbytes k (by omega), getD_shiftLeft, getD_axBytes, Nat.add_right_comm]
    split
    · rfl
    · exact axByte_past_ten _ (by omega)
  · obtain ⟨t, hexec, ha, hx, hbytes, ht⟩ := shiftAX_gives shiftRight he
    refine ⟨t, hexec, ha, hx, fun k h1 h10 => ?_, ht⟩
    obtain ⟨k, rfl⟩ := Nat.exists_eq_add_of_le' h1
    rw [hbytes k (by omega), getD_shiftRight (by omega), getD_axBytes]
    simp only [Nat.lt_succ_iff]
    split
    · rw [Nat.sub_add_comm (by assumption)]
    · rfl
  · obtain ⟨t, hexec, ha, hx, hbytes, ht⟩ := shiftAX_gives rotateLeft he
    refine ⟨t, hexec, ha, hx, fun k h1 h10 => ?_, ht⟩
    obtain ⟨k, rfl⟩ := Nat.exists_eq_add_of_le' h1
    rw [hbytes k (by omega), getD_rotateLeft (by omega) (by omega), hlen, getD_axBytes, Nat.add_sub_cancel]
  · obtain ⟨t, hexec, ha, hx, hbytes, ht⟩ := shiftAX_gives rotateRight he
    refine ⟨t, hexec, ha, hx, fun k h1 h10 => ?_, ht⟩
    obtain ⟨k, rfl⟩ := Nat.exists_eq_add_of_le' h1
    rw [hbytes k (by omega), getD_rotateRight (by omega) (by omega), hlen, getD_axBytes, Nat.add_sub_cancel]
  · simp only [List.forall_mem_cons, exec_slax, exec_srax, exec_slc, exec_src]
    have hbad := withShiftCount_bad hneg 10
    exact ⟨hbad _, hbad _, hbad _, hbad _, fun _ h => (List.not_mem_nil h).elim⟩

/-! ## MOVE -/

theorem withRun_bad_start {a : Int} {n : Nat} {k : Nat → Result} (h : ¬ (0 ≤ a ∧ a < 4000)) :
    withRun a n k = .fault (.addressOutOfRange a) := withAddress_bad h _

theorem withRun_bad_end {a : Int} {n : Nat} {k : Nat → Result} (h : 0 ≤ a ∧ a < 4000) (hend : ¬ a + n ≤ 4000) :
    withRun a n k = .fault (.addressOutOfRange 4000) := by
  rw [withRun, withAddress_ok h.1 h.2]
  exact if_pos (show 4000 < a.toNat + n by omega)

theorem withRun_fits {a : Int} {n : Nat} {k : Nat → Result} (hn : n ≠ 0) (h : 0 ≤ a) (hend : a + n ≤ 4000) :
    withRun a n k = k a.toNat := withRun_ok h (Nat.pos_of_ne_zero hn) hend k

theorem exec_move_pos {n : Byte} (hn : n.toNat ≠ 0) :
    exec (.move m n) s = withRun (ea m s).val n.toNat fun src =>
      withRun s.i1.val n.toNat fun dst =>
        finish ((s.setMem (s.mem.writeRun dst (s.mem.readRun src n.toNat))).setIndex .i1
          (Half.ofMag .plus (dst + n.toNat))) :=
  if_neg hn

/-- MOVE with both runs in memory copies the old source run and advances I1 past its destination (R450). -/
theorem move_gives {n : Byte} {a b : Nat} (hwf : s.mem.wf = true) (hn : n ≠ 0) (ha : (ea m s).val = a)
    (hb : signed s.i1.sign s.i1.mag = b) (hsrc : a + n.toNat ≤ 4000) (hdst : b + n.toNat ≤ 4000) :
    ∃ t, exec (.move m n) s = .next t ∧ (∀ k < n.toNat, t.mem.read (b + k) = s.mem.read (a + k)) ∧
      (∀ c, c < b ∨ b + n.toNat ≤ c → t.mem.read c = s.mem.read c) ∧
      t.i1.sign = .plus ∧ t.i1.mag = b + n.toNat ∧ t = { s with mem := t.mem, i1 := t.i1, pc := s.pc + 1 } := by
  have hn' : n.toNat ≠ 0 := fun h0 => hn (BitVec.eq_of_toNat_eq h0)
  have hlen : (s.mem.readRun a n.toNat).length = n.toNat := Memory.length_readRun _ _ _
  have hfits : b + (s.mem.readRun a n.toNat).length ≤ Config.memSize := by rwa [hlen]
  rw [signed_half] at hb
  rw [exec_move_pos hn', ha, withRun_fits hn' (by omega) (by omega), hb, withRun_fits hn' (by omega) (by omega),
    Int.toNat_natCast, Int.toNat_natCast]
  refine ⟨_, finish_eq _, fun k hk => ?_, fun c hc => ?_, rfl, Half.mag_ofMag_of_lt _ (by omega), rfl⟩
  · exact Memory.read_writeRun_same hwf b k _ hfits _ (Memory.getElem?_readRun _ _ _ _ hk)
  · exact Memory.read_writeRun_ne hwf b c _ hfits (by rwa [hlen])

/-- Settles O38: no count, no check; else the copy of the run. -/
theorem moveCopiesTheRun : Obligations.MoveCopiesTheRun := by
  intro m n s hwf
  refine ⟨?_, fun a b hn ha hb hsrc hdst => move_gives hwf hn ha hb hsrc hdst⟩
  rintro rfl
  exact finish_eq s

/-- Settles O39: the source run is checked before the destination run, and of each its start before its end. -/
theorem moveOutsideMemoryFaults : Obligations.MoveOutsideMemoryFaults := by
  intro m n s hn src dst starts fits
  have hn' : n.toNat ≠ 0 := fun h0 => hn (BitVec.eq_of_toNat_eq h0)
  have hdst : s.i1.val = dst := (signed_half s.i1).symm
  rw [exec_move_pos hn', hdst]
  refine ⟨fun h => withRun_bad_start h, fun h hend => withRun_bad_end h hend, fun h hend h' => ?_, fun h hend h' hend' => ?_⟩
  all_goals rw [withRun_fits hn' h.1 hend]
  · exact withRun_bad_start h'
  · exact withRun_bad_end h' hend'

/-! ## Stored words as instructions -/

/-- A store of the table is the shared operation on its parts, and its field is legal (R220 to R230). -/
theorem exec_of_storeParts {i : Instr} {f : FieldSpec} {src : Word} (h : storeParts s i = some (m, f, src))
    (hwf : i.WellFormed) : exec i s = store src m f s ∧ legalField f := by
  cases i <;> cases h
  case stj => exact ⟨rfl, legalField_stj⟩
  all_goals exact ⟨rfl, legalField_iff.2 hwf⟩

/-- Every fetch from a cell of memory decodes what the cell holds (R92). -/
theorem fetchedFrom_of_lt (mem : Memory) {c : Nat} (hc : c < 4000) : fetchedFrom mem c := by
  rintro u i rfl hrun rfl hdec
  exact step_of_decode_ok hrun hc hdec

theorem toNat_pc_add_one (hpc : s.pc.toNat < 4000) : (s.pc + 1).toNat = s.pc.toNat + 1 := by
  rw [BitVec.toNat_add]
  exact Nat.mod_eq_of_lt (by show s.pc.toNat + 1 < 4096; omega)

/-- Settles O54: the step executes the store or the MOVE at PC, and every fetch reads the memory it leaves. -/
theorem storedWordIsFetchedNext : Obligations.StoredWordIsFetchedNext := by
  intro s hwf hrun hpc
  refine ⟨fun i m f src c hi hword hparts hc => ?_, fun m n a b hword hn ha hb hsrc hdst => ?_⟩
  · obtain ⟨hexec, hf⟩ := exec_of_storeParts hparts hi
    obtain ⟨t, hstore, hfield, -, ht⟩ := store_replaces_field (src := src) hwf hf hc
    refine ⟨t, ?_, ?_, ?_, hfield, fetchedFrom_of_lt _ hc.2⟩
    · rw [step_of_decode_ok hrun hpc (hword ▸ decode_encode hi), hexec, hstore]
    · rw [ht]
      exact toNat_pc_add_one hpc
    · rw [ht]
      exact hrun
  · obtain ⟨t, hexec, hcopy, -, -, -, ht⟩ := move_gives hwf hn ha hb hsrc hdst
    refine ⟨t, ?_, ?_, ?_, fun k hk => ⟨hcopy k hk, fetchedFrom_of_lt _ (by omega)⟩⟩
    · rw [step_of_decode_ok hrun hpc (hword ▸ decode_encode rfl), hexec]
    · rw [ht]
      exact toNat_pc_add_one hpc
    · rw [ht]
      exact hrun

end Sys2Proof.Spec

/-! PROOFS of the statements about the word codec (O3), the halted machine (O14, O40), the host operations (O42, O55 to O57) and
the run (O58). -/

namespace Sys2Proof.Spec

open Sys2Proof.Machine

/-! ## The codec -/

/-- `compose` keeps a byte in range and replaces any other by 0 (R32). -/
theorem composeByte_kept (b : Int) :
    (0 ≤ b → b ≤ 63 → ((composeByte b).toNat : Int) = b) ∧ (b < 0 ∨ 63 < b → composeByte b = 0) := by
  refine ⟨fun h0 h1 => ?_, fun h => if_neg (by omega)⟩
  lift b to Nat using h0
  rw [toNat_composeByte (by omega)]

/-- The 31-bit encoding lays out the sign bit and the five bytes (R31). -/
theorem enc_layout (w : Word) :
    (w.enc / 2 ^ 30 = 1 ↔ w.sign = .minus) ∧ w.enc / 2 ^ 24 % 64 = w.b1.toNat ∧ w.enc / 2 ^ 18 % 64 = w.b2.toNat ∧
      w.enc / 2 ^ 12 % 64 = w.b3.toNat ∧ w.enc / 2 ^ 6 % 64 = w.b4.toNat ∧ w.enc % 64 = w.b5.toNat := by
  have h1 := w.b1.isLt; have h2 := w.b2.isLt; have h3 := w.b3.isLt; have h4 := w.b4.isLt; have h5 := w.b5.isLt
  have hsign : w.sign.bit = 1 ↔ w.sign = .minus := by cases w.sign <;> decide
  have hbit : w.sign.bit ≤ 1 := by cases w.sign <;> decide
  rw [← hsign, Word.enc, Word.mag]
  omega

/-- Settles O3: byte by byte, and the two round trips of the encoding. -/
theorem composeAndEncodingAreExact : Obligations.ComposeAndEncodingAreExact := by
  refine ⟨fun b1 b2 b3 b4 b5 s => ?_, fun w => ?_, fun n hn => Word.enc_ofEnc hn⟩
  · exact ⟨rfl, composeByte_kept b1, composeByte_kept b2, composeByte_kept b3, composeByte_kept b4, composeByte_kept b5⟩
  · obtain ⟨hs, h1, h2, h3, h4, h5⟩ := enc_layout w
    exact ⟨w.enc_lt, hs, h1, h2, h3, h4, h5, w.ofEnc_enc⟩

/-! ## Steps and their status -/

variable {s t : State} {c : Session} {f : Fault}

theorem step_halted (h : s.halt = true) : step s = .next s := if_pos h

theorem step_outside (hrun : s.halt = false) (hpc : 4000 ≤ s.pc.toNat) :
    step s = .fault (.addressOutOfRange s.pc.toNat) := by
  have hfetch : fetch s = .stop (.addressOutOfRange s.pc.toNat) := if_neg (Nat.not_lt.2 hpc)
  simp [step, hrun, hfetch, raise]

theorem statusOf_next_of_halted (h : t.halt = true) : statusOf (.next t) = .status .halted 0 := if_pos h

theorem stepOp_of_next (h : step c.core = .next t) : c.stepOp = (statusOf (.next t), ⟨t, true⟩) := by
  rw [Session.stepOp, h]
  rfl

theorem stepOp_of_fault (h : step c.core = .fault f) :
    c.stepOp = (.status f.status.1 f.status.2, ⟨c.core, true⟩) := by
  rw [Session.stepOp, h]
  rfl

/-- A fault's status is none of OK and HALTED, and has a code of 2 to 8 (R501). -/
theorem status_of_fault (f : Fault) :
    f.status.1 ≠ .ok ∧ f.status.1 ≠ .halted ∧ 2 ≤ f.status.1.code ∧ f.status.1.code ≤ 8 := by
  cases f <;> simp [Fault.status, Status.code]

/-- Settles O14: the two places of R511 that come before the fetched word. -/
theorem haltedOrOutsideMemoryNothingIsFetched : Obligations.HaltedOrOutsideMemoryNothingIsFetched := by
  refine ⟨fun s h => ?_, fun s hrun hpc => ⟨step_outside hrun hpc, fun stepped => ?_⟩⟩
  · rw [step_halted h]
    exact ⟨rfl, statusOf_next_of_halted h⟩
  · rw [stepOp_of_fault (step_outside hrun hpc)]

/-- Settles O40: HLT is the end of an instruction on the halted state, which then steps to itself. -/
theorem nopAndHalt : Obligations.NopAndHalt := by
  intro m s
  have hexec : exec (.hlt m) s = .next { s with halt := true, pc := s.pc + 1 } := finish_eq s.setHalt
  refine ⟨fun f => finish_eq s, _, hexec, rfl, ?_, fun stepped => ?_⟩
  · rw [hexec]
    exact statusOf_next_of_halted rfl
  · exact stepOp_of_next (step_halted rfl)

/-- Settles O55: the session after a fault holds the core before it. -/
theorem faultChangesNothing : Obligations.FaultChangesNothing := by
  intro c f h
  rw [stepOp_of_fault h]
  exact ⟨rfl, _, _, rfl, status_of_fault f⟩

/-! ## Loads and reset -/

theorem inMemory_iff {a : Int} : inMemory a = true ↔ 0 ≤ a ∧ a < 4000 := by
  have hsize : (Config.memSize : Int) = 4000 := rfl
  simp [inMemory, hsize]

theorem loadOp_stepped (h : c.stepped = true) (addr : Int) (w : Word) : c.loadOp addr w = (.refused .loadAfterStep, c) :=
  if_pos h

theorem loadOp_outside {addr : Int} (hstep : c.stepped = false) (h : addr < 0 ∨ 4000 ≤ addr) (w : Word) :
    c.loadOp addr w = (.refused (.loadOutOfRange addr), c) := by
  have hout : ¬ inMemory addr = true := mt inMemory_iff.1 (by omega)
  rw [Session.loadOp, hstep, if_neg Bool.false_ne_true, if_neg hout]

theorem loadOp_ok {a : Nat} (hstep : c.stepped = false) (h : a < 4000) (w : Word) :
    c.loadOp a w = (.done, { c with core := c.core.setMem (c.core.mem.write a w) }) := by
  have hin : inMemory a = true := inMemory_iff.2 ⟨by omega, by omega⟩
  rw [Session.loadOp, hstep, if_neg Bool.false_ne_true, if_pos hin, Int.toNat_natCast]

/-- Settles O57: the check of the session, then that of the address, then one write. -/
theorem loadPlacesOneWord : Obligations.LoadPlacesOneWord := by
  intro c addr w hwf
  refine ⟨?_, fun h => ?_⟩
  · rintro hstep a rfl ha
    exact ⟨_, loadOp_ok hstep ha w, hstep, Memory.read_write_same hwf a w, fun b hb => Memory.read_write_ne hwf w hb,
      Memory.write_wf hwf w ha, rfl⟩
  · cases hstep : c.stepped with
    | true => exact ⟨_, loadOp_stepped hstep addr w⟩
    | false => exact ⟨_, loadOp_outside hstep (h.resolve_left fun htrue => by simp_all) w⟩

/-- Settles O56: the session after the fault is a fixed point of the step. -/
theorem faultIsStickyUntilReset : Obligations.FaultIsStickyUntilReset := by
  intro c f h n
  have hfix : c.stepOp.2.stepOp = c.stepOp := by
    rw [stepOp_of_fault h]
    exact stepOp_of_fault h
  refine ⟨?_, hfix, fun addr w => ⟨_, loadOp_stepped rfl addr w⟩⟩
  rw [Function.iterate_succ_apply]
  exact Function.iterate_fixed (congrArg Prod.snd hfix) n

theorem resetOp_ok {start : Int} (h : 0 ≤ start ∧ start < 4000) :
    c.resetOp start [] = (.done, ⟨State.resetAt (.ofNat 12 start.toNat), false⟩) := by
  rw [Session.resetOp, if_neg (not_not.2 rfl), if_pos (inMemory_iff.2 h)]

theorem resetOp_refused {start : Int} {devices : List Nat} (h : start < 0 ∨ 4000 ≤ start ∨ devices ≠ []) :
    ∃ r, c.resetOp start devices = (.refused r, c) := by
  unfold Session.resetOp
  split
  · exact ⟨_, rfl⟩
  · rename_i hdev
    have hstart : start < 0 ∨ 4000 ≤ start := h.imp_right fun h => h.resolve_right hdev
    have hout : ¬ inMemory start = true := mt inMemory_iff.1 (by omega)
    rw [if_neg hout]
    exact ⟨_, rfl⟩

/-- Settles O42: reset writes every field, and both refusals leave the session. -/
theorem resetGivesEveryPieceOfState : Obligations.ResetGivesEveryPieceOfState := by
  intro c start devices
  refine ⟨?_, fun h => ?_⟩
  · rintro h0 h1 rfl
    refine ⟨_, resetOp_ok ⟨h0, h1⟩, ?_, rfl, rfl, fun i => ?_, rfl, rfl, rfl, rfl, fun a => rfl⟩
    · show ((BitVec.ofNat 12 start.toNat).toNat : Int) = start
      rw [BitVec.toNat_ofNat]
      omega
    · cases i <;> rfl
  · obtain ⟨r, hr⟩ := resetOp_refused (c := c) h
    exact ⟨congrArg Prod.snd hr, r, congrArg Prod.fst hr⟩

/-! ## The run -/

/-- The session after k steps. -/
def stepsFrom (c : Session) (k : Nat) : Session := (fun e : Session => e.stepOp.2)^[k] c

/-- The first k steps all return (OK, 0). -/
def OkFor (c : Session) (k : Nat) : Prop := ∀ j < k, (stepsFrom c j).stepOp.1 = .status .ok 0

theorem stepsFrom_succ (c : Session) (k : Nat) : stepsFrom c (k + 1) = stepsFrom c.stepOp.2 k := rfl

theorem okFor_succ {k : Nat} : OkFor c (k + 1) ↔ c.stepOp.1 = .status .ok 0 ∧ OkFor c.stepOp.2 k := by
  refine ⟨fun h => ⟨h 0 (by omega), fun j hj => h (j + 1) (by omega)⟩, fun ⟨h0, h⟩ j hj => ?_⟩
  cases j with
  | zero => exact h0
  | succ j => exact h j (by omega)

/-- The info of OK is 0. -/
theorem info_of_ok {info : Int} (h : c.stepOp.1 = .status .ok info) : info = 0 := by
  cases hstep : step c.core with
  | next t =>
    rw [stepOp_of_next hstep] at h
    simp only [statusOf] at h
    split at h <;> cases h
    rfl
  | fault f =>
    rw [stepOp_of_fault hstep] at h
    exact absurd (Reply.status.inj h).1 (status_of_fault f).1
  | refused r =>
    rw [Session.stepOp, hstep] at h
    cases h

theorem run_succ_of_ok {n : Nat} (h : c.stepOp.1 = .status .ok 0) : c.run (n + 1) = c.stepOp.2.run n := by
  have hpair : c.stepOp = (.status .ok 0, c.stepOp.2) := Prod.ext h rfl
  rw [Session.run, hpair]

theorem run_succ_of_not_ok {n : Nat} (h : c.stepOp.1 ≠ .status .ok 0) : c.run (n + 1) = c.stepOp := by
  rw [Session.run]
  split
  · rename_i info d heq
    have hfst : c.stepOp.1 = .status .ok info := congrArg Prod.fst heq
    exact absurd (info_of_ok hfst ▸ hfst) h
  · rfl

theorem run_of_okFor {n : Nat} (h : OkFor c n) : c.run n = (.status .ok 0, stepsFrom c n) := by
  induction n generalizing c with
  | zero => rfl
  | succ n ih =>
    obtain ⟨h0, h⟩ := okFor_succ.1 h
    rw [run_succ_of_ok h0, ih h, stepsFrom_succ]

/-- A run ends at its first step that is not OK (R516). -/
theorem run_eq_iff {n : Nat} {st : Status} {info : Int} {d : Session} (hst : st ≠ .ok) :
    c.run n = (.status st info, d) ↔ ∃ k < n, OkFor c k ∧ (stepsFrom c k).stepOp = (.status st info, d) := by
  induction n generalizing c with
  | zero =>
    refine ⟨fun h => ?_, fun ⟨k, hk, _⟩ => absurd hk (Nat.not_lt_zero k)⟩
    rw [Session.run, Prod.mk.injEq, Reply.status.injEq] at h
    exact absurd h.1.1.symm hst
  | succ n ih =>
    by_cases h0 : c.stepOp.1 = .status .ok 0
    · rw [run_succ_of_ok h0, ih]
      constructor
      · rintro ⟨k, hk, hok, hstep⟩
        exact ⟨k + 1, by omega, okFor_succ.2 ⟨h0, hok⟩, hstep⟩
      · rintro ⟨_ | k, hk, hok, hstep⟩
        · have hfst : c.stepOp.1 = .status st info := congrArg Prod.fst hstep
          rw [h0, Reply.status.injEq] at hfst
          exact absurd hfst.1.symm hst
        · exact ⟨k, by omega, (okFor_succ.1 hok).2, hstep⟩
    · rw [run_succ_of_not_ok h0]
      constructor
      · exact fun h => ⟨0, by omega, fun j hj => absurd hj (Nat.not_lt_zero j), h⟩
      · rintro ⟨_ | k, -, hok, hstep⟩
        · exact hstep
        · exact absurd (okFor_succ.1 hok).1 h0

/-- A step that leaves a machine halted found it halted and changed nothing, or is the step of HLT (R461, R515). -/
theorem step_to_halted (h : step s = .next t) (ht : t.halt = true) :
    (s.halt = true ∧ t = s) ∨ (s.halt = false ∧ t = { s with halt := true, pc := s.pc + 1 }) := by
  refine (step_eq_next.1 h).imp_right fun ⟨hrun, i, _, hexec⟩ => ⟨hrun, ?_⟩
  have hop : i.op = .hlt := (exec_halt hexec).resolve_left fun hsame => by simp_all
  obtain ⟨m, rfl⟩ := eq_hlt_of_op hop
  rw [finish_next hexec, advance_eq]
  rfl

/-- The core after a step whose status is not OK (R461, R502, R515). -/
theorem core_after_not_ok {st : Status} {info : Int} {d : Session} (hst : st ≠ .ok) (h : c.stepOp = (.status st info, d)) :
    d.core = if st = .halted ∧ c.core.halt = false then { c.core with halt := true, pc := c.core.pc + 1 } else c.core := by
  cases hstep : step c.core with
  | next t =>
    rw [stepOp_of_next hstep] at h
    cases ht : t.halt with
    | false =>
      rw [statusOf_next_of_running ht] at h
      cases h
      exact absurd rfl hst
    | true =>
      rw [statusOf_next_of_halted ht] at h
      cases h
      obtain ⟨hhalt, rfl⟩ | ⟨hrun, rfl⟩ := step_to_halted hstep ht
      · rw [if_neg (by simp [hhalt])]
      · rw [if_pos ⟨rfl, hrun⟩]
  | fault f =>
    rw [stepOp_of_fault hstep] at h
    cases h
    rw [if_neg fun hh => (status_of_fault f).2.1 hh.1]
  | refused r =>
    rw [Session.stepOp, hstep] at h
    cases h

/-- Settles O58: the end of the run by induction on its bound, the core by the outcome of its last step. -/
theorem runEndsAtTheFirstStatusNotOk : Obligations.RunEndsAtTheFirstStatusNotOk := by
  intro c n
  exact ⟨fun st info d hst => ⟨run_eq_iff hst, fun k h => core_after_not_ok hst h⟩, run_of_okFor⟩

end Sys2Proof.Spec
